-- ==== Sys2Proof/Word.lean ====
section
/-! DEFINITION. The block's words: bytes of the host stream, 16-bit register values, and the 16-row bitmap
(10_state.md R15, R24; 00_scope.md R11). -/

namespace Sys2Proof

/-- One byte of the host byte stream (`u8` of 00_scope.md R11). -/
abbrev Byte := BitVec 8

/-- One register value (`u16` of 00_scope.md R11). There is no signed value anywhere in the block. -/
abbrev U16 := BitVec 16

/-- A bitmap: H = 16 rows, row 0 at the top; a row lists its bits from column 0, the leftmost, to column W-1
(10_state.md R24). A bit of `true` is a lit pixel. -/
structure Bitmap where
  rows : Vector (List Bool) 16
  deriving DecidableEq, Repr

/-- The bitmap of width `w` with every bit 0 (10_state.md R25, the "all zeros" of 42_display_render.md R133). -/
def Bitmap.blank (w : Nat) : Bitmap := ⟨Vector.replicate 16 (List.replicate w false)⟩

/-- One entry of an observation trace: an event, or the RESET marker a watchdog reset appends
(70_reset_and_hazards.md R177). -/
inductive Traced (α : Type) where
  | item (a : α)
  | reset
  deriving DecidableEq, Repr

end Sys2Proof
end

