-- ==== Sys2Proof/Syntax.lean ====
section
/-! DEFINITION. The operations of the block's ports: one constructor of `Instr` per row of spec/opcode_table.json
(00_scope.md R2; 30_encoding.md R69, R84), and the two forms in which the environment hands one to the block. -/

namespace Sys2Proof

/-- The four slots of the liveness table (10_state.md R36). -/
inductive Slot where
  | proto
  | logger
  | display
  | supervisor
  deriving DecidableEq, Repr

/-- What a command keeps of its frame's header: the transaction id and the unit id, both echoed in the reply
(30_encoding.md R66, R68, R74). -/
structure FrameHead where
  tid : U16
  uid : Byte
  deriving DecidableEq, Repr

/-- The fields of a read registers request (30_encoding.md R70). -/
structure ReadReq where
  addr : U16
  qty : U16
  deriving DecidableEq, Repr

/-- The fields of a write single register request (30_encoding.md R71). -/
structure WriteReq where
  addr : U16
  value : U16
  deriving DecidableEq, Repr

/-- The fields of a write multiple registers request (30_encoding.md R72). `data` is what the PDU holds of the BC
value bytes: all of them, or fewer when the PDU is short. -/
structure WriteManyReq where
  addr : U16
  qty : U16
  bc : Byte
  data : List Byte
  deriving DecidableEq, Repr

/-- The operations of spec/opcode_table.json. A host command whose PDU is too short for its fixed fields has no
fields (`none`): it is still that command, and resyncs (41_host_commands.md R110). -/
inductive Instr where
  /-- 0x03, 41_host_commands.md R111 -/
  | readRegisters (h : FrameHead) (req : Option ReadReq)
  /-- 0x06, 41_host_commands.md R112 -/
  | writeSingle (h : FrameHead) (req : Option WriteReq)
  /-- 0x10, 41_host_commands.md R113 -/
  | writeMultiple (h : FrameHead) (req : Option WriteManyReq)
  /-- every other function code, 41_host_commands.md R114 -/
  | unsupported (h : FrameHead) (fc : Byte)
  /-- 0xA0, 40_register_file.md R95 -/
  | read (a : Nat)
  /-- 0xA1, 40_register_file.md R96 -/
  | readBlock (a q : Nat)
  /-- 0xA2, 40_register_file.md R97 -/
  | write (a : Nat) (v : U16)
  /-- 0xA3, 40_register_file.md R98 -/
  | writeBlock (a : Nat) (vs : List U16)
  /-- 0xA4, 40_register_file.md R100 -/
  | consumeChangedTime
  /-- 0xA5, 40_register_file.md R101 -/
  | getTime
  /-- 0xA6, 40_register_file.md R102 -/
  | getDate
  /-- 0xA7, 40_register_file.md R103 -/
  | getLogEnable
  /-- 0xB0, 42_display_render.md R133 -/
  | render (m sec : U16)
  /-- 0xB1, 42_display_render.md R134 -/
  | publish
  /-- 0xB2, 42_display_render.md R136 -/
  | displayStep
  /-- 0xC0, 43_scan_engine.md R146 -/
  | scanStep
  /-- 0xD0, 41_host_commands.md R106 -/
  | receiveChunk (chunk : List Byte)
  /-- 0xD1, 41_host_commands.md R122 -/
  | connect
  /-- 0xD2, 41_host_commands.md R123 -/
  | disconnect
  /-- 0xD3, 41_host_commands.md R124 -/
  | protoIdle
  /-- 0xE0, 60_exceptions.md R165 -/
  | kick (slot : Slot)
  /-- 0xE1, 60_exceptions.md R166 -/
  | supervisorCycle
  /-- 0xE2, 60_exceptions.md R167 -/
  | watchdogInit (t : Nat)
  /-- 0xE3, 60_exceptions.md R168 -/
  | watchdogKick
  /-- 0xF0, 60_exceptions.md R169 -/
  | timeAdvance (d : Nat)
  deriving DecidableEq, Repr

/-- A request for an operation: a port operation as its selector byte and operand bytes, or one whole host frame handed
to the command executor (log 3, 4). -/
inductive Request where
  | port (bytes : List Byte)
  | frame (bytes : List Byte)
  deriving DecidableEq, Repr

/-- One agent step the environment has scheduled (log 1): a whole operation, or one read of the supervisor, which reads
the four liveness slots one after another and may be interrupted between two reads (20_memory.md R61,
60_exceptions.md R166; log 14). -/
inductive Turn where
  | operation (r : Request)
  | superviseRead
  deriving DecidableEq, Repr

/-- A decoded PDU, before it is joined to its frame's header (41_host_commands.md R110). -/
inductive Pdu where
  | read (req : Option ReadReq)
  | writeSingle (req : Option WriteReq)
  | writeMultiple (req : Option WriteManyReq)
  | unsupported (fc : Byte)
  deriving DecidableEq, Repr

/-- The command a PDU is, in a frame with header `h`. -/
def Pdu.instr (h : FrameHead) : Pdu → Instr
  | .read req => .readRegisters h req
  | .writeSingle req => .writeSingle h req
  | .writeMultiple req => .writeMultiple h req
  | .unsupported fc => .unsupported h fc

/-- The lines of the programs of 95_test_vectors.md (30_encoding.md R85) and their pseudo-instructions (R86). -/
inductive ProgramLine where
  | connect
  | disconnect
  | send (chunk : List Byte)
  | disp
  | scan
  | sup
  | wdinit
  | idle
  | kick (slot : Slot)
  | time (d : Nat)
  | logrd (a q : Nat)
  | rd03 (t : U16) (u : Byte) (a q : U16)
  | wr06 (t : U16) (u : Byte) (a v : U16)
  | wr10 (t : U16) (u : Byte) (a : U16) (vs : List U16)
  | fc (t : U16) (u : Byte) (f : Byte) (ds : List Byte)
  | comment (text : String)
  deriving DecidableEq, Repr

end Sys2Proof
end

