-- ==== Sys2Proof/WellFormed.lean ====
section
/-! DEFINITION. The checks an operation of spec/opcode_table.json meets: the ranges of its operands. -/

namespace Sys2Proof

/-- The operands are in the ranges that spec/opcode_table.json and the rules give them: a value field no longer than
its byte count and than the longest frame allows (30_encoding.md R67, R72), an unsupported code that is none of the
three commands (R69), a quantity or list of at least one element (40_register_file.md R96, R98;
41_host_commands.md R106), an advance of at least 1 (60_exceptions.md R169). -/
def Instr.wellFormed : Instr → Bool
  | .readRegisters _ _ => true
  | .writeSingle _ _ => true
  | .writeMultiple _ req =>
    match req with
    | none => true
    | some r => decide (r.data.length ≤ r.bc.toNat) && decide (r.data.length ≤ 246)
  | .unsupported _ fc => decide (fc ≠ 0x03) && decide (fc ≠ 0x06) && decide (fc ≠ 0x10)
  | .read _ => true
  | .readBlock _ q => decide (1 ≤ q)
  | .write _ _ => true
  | .writeBlock _ vs => decide (vs ≠ [])
  | .consumeChangedTime => true
  | .getTime => true
  | .getDate => true
  | .getLogEnable => true
  | .render _ _ => true
  | .publish => true
  | .displayStep => true
  | .scanStep => true
  | .receiveChunk chunk => decide (chunk ≠ [])
  | .connect => true
  | .disconnect => true
  | .protoIdle => true
  | .kick _ => true
  | .supervisorCycle => true
  | .watchdogInit _ => true
  | .watchdogKick => true
  | .timeAdvance d => decide (1 ≤ d)

end Sys2Proof
end

