-- ==== Sys2Proof/Decode.lean ====
section
/-! DEFINITION. The decoder and the encoder: the framed host byte stream (30_encoding.md sections 1 to 4), which is
the spec's, and the layout of a scheduled port operation, whose 8-bit selector is the spec's (30_encoding.md R84)
and whose operand layout is the model's own (log 3). -/

namespace Sys2Proof

/-! ## Fields -/

/-- `be16(b0, b1) = b0 * 256 + b1` (00_scope.md R12, 20_memory.md R47). -/
def be16 (b0 b1 : Byte) : U16 := b0 ++ b1

/-- `bytes16(v) = [v[15:8], v[7:0]]` (00_scope.md R12). -/
def bytes16 (v : U16) : List Byte := [v.extractLsb' 8 8, v.extractLsb' 0 8]

/-- The big-endian 16-bit values of a list of bytes, two bytes a value (30_encoding.md R72); an odd last byte is no
value. -/
def wordsOf : List Byte → List U16
  | b0 :: b1 :: more => be16 b0 b1 :: wordsOf more
  | _ => []

/-! ## Host frames (30_encoding.md R66 to R82) -/

/-- A frame: transaction id, protocol id 0, LEN = 1 + the PDU's length, unit id, PDU (30_encoding.md R66, R74). -/
def frameBytes (h : FrameHead) (pdu : List Byte) : List Byte :=
  bytes16 h.tid ++ [0, 0] ++ bytes16 (BitVec.ofNat 16 (1 + pdu.length)) ++ [h.uid] ++ pdu

/-- What the front of the reassembly buffer holds (41_host_commands.md R108): not yet a whole frame, a header that
forces a resync, or a frame with its header, function code, the rest of its PDU, and the bytes after it. -/
inductive Detected where
  | wait
  | bad
  | frame (h : FrameHead) (fc : Byte) (args : List Byte) (rest : List Byte)
  deriving DecidableEq, Repr

/-- Frame detection (41_host_commands.md R108, R109; 30_encoding.md R67, R80): nothing is decided on fewer than 7
bytes; PID must be 0 and LEN in 2..253; the frame is 6 + LEN bytes and its PDU LEN - 1 bytes. -/
def detectFrame : List Byte → Detected
  | t0 :: t1 :: p0 :: p1 :: l0 :: l1 :: uid :: body =>
    let len := (be16 l0 l1).toNat
    if be16 p0 p1 ≠ 0 ∨ len < 2 ∨ 253 < len then .bad
    else match body with
      | [] => .wait
      | fc :: more =>
        if more.length < len - 2 then .wait
        else .frame ⟨be16 t0 t1, uid⟩ fc (more.take (len - 2)) (more.drop (len - 2))
  | _ => .wait

/-- ADDR and QTY of a 0x03 request, or `none` for a PDU of fewer than 5 bytes (30_encoding.md R70). -/
def decodeReadReq : List Byte → Option ReadReq
  | a0 :: a1 :: q0 :: q1 :: _ => some ⟨be16 a0 a1, be16 q0 q1⟩
  | _ => none

/-- ADDR and VALUE of a 0x06 request, or `none` for a PDU of fewer than 5 bytes (30_encoding.md R71). -/
def decodeWriteReq : List Byte → Option WriteReq
  | a0 :: a1 :: v0 :: v1 :: _ => some ⟨be16 a0 a1, be16 v0 v1⟩
  | _ => none

/-- ADDR, QTY, BC and the value bytes of a 0x10 request, or `none` for a PDU of fewer than 6 bytes
(30_encoding.md R72). Bytes after the BC value bytes are ignored. -/
def decodeWriteManyReq : List Byte → Option WriteManyReq
  | a0 :: a1 :: q0 :: q1 :: bc :: data => some ⟨be16 a0 a1, be16 q0 q1, bc, data.take bc.toNat⟩
  | _ => none

/-- The command a PDU holds, chosen by its function code (30_encoding.md R69, 41_host_commands.md R110); `args` are
the bytes after the function code. -/
def decodePdu (fc : Byte) (args : List Byte) : Pdu :=
  if fc = 0x03 then .read (decodeReadReq args)
  else if fc = 0x06 then .writeSingle (decodeWriteReq args)
  else if fc = 0x10 then .writeMultiple (decodeWriteManyReq args)
  else .unsupported fc

/-! ## Scheduled requests -/

/-- Why a request is no operation: its selector names none (30_encoding.md R84), an operand is missing or names no
slot, a byte string is no whole legal frame, or there is no byte at all. -/
inductive DecodeError where
  | unknownOpsel (sel : Byte)
  | badOperand (sel : Byte)
  | badFrame
  | empty
  deriving DecidableEq, Repr

/-- A Nat operand: seven bits a byte, least significant first, the top bit set on every byte but the last (the
model's own layout, DESIGN CHOICE, safe; log 3). -/
def decodeNat : List Byte → Option (Nat × List Byte)
  | [] => none
  | b :: more =>
    if b.toNat < 128 then some (b.toNat, more)
    else match decodeNat more with
      | some (n, rest) => some (b.toNat - 128 + 128 * n, rest)
      | none => none

/-- A 16-bit operand, most significant byte first. -/
def decodeU16 : List Byte → Option (U16 × List Byte)
  | b0 :: b1 :: more => some (be16 b0 b1, more)
  | _ => none

/-- The liveness slot a byte names. -/
def decodeSlot (b : Byte) : Option Slot :=
  match b.toNat with
  | 0 => some .proto
  | 1 => some .logger
  | 2 => some .display
  | 3 => some .supervisor
  | _ => none

/-- Give `k` the operand that was read, or reject the request by its selector. -/
def withOperand {α : Type} (sel : Byte) (o : Option α) (k : α → Except DecodeError Instr) :
    Except DecodeError Instr :=
  match o with
  | some x => k x
  | none => .error (.badOperand sel)

/-- The operation of a selector and its operand bytes: the OPSEL table of 30_encoding.md R84. The selectors are the
spec's; the operand layout is the model's (log 3): operands stand in the table's order, a quantity q or an advance d
of 1 or more is stored as q - 1 or d - 1, a quantity of 0 is no operand, a list is all the bytes that are left, and
bytes after the operands are ignored. -/
def decodeOp (sel : Byte) (ops : List Byte) : Except DecodeError Instr :=
  match sel.toNat with
  | 0xA0 => withOperand sel (decodeNat ops) fun x => .ok (.read x.1)
  | 0xA1 => withOperand sel (decodeNat ops) fun x =>
      if x.2 = [] then .ok (.readBlock x.1 0)
      else withOperand sel (decodeNat x.2) fun y => .ok (.readBlock x.1 (y.1 + 1))
  | 0xA2 => withOperand sel (decodeNat ops) fun x =>
      withOperand sel (decodeU16 x.2) fun y => .ok (.write x.1 y.1)
  | 0xA3 => withOperand sel (decodeNat ops) fun x => .ok (.writeBlock x.1 (wordsOf x.2))
  | 0xA4 => .ok .consumeChangedTime
  | 0xA5 => .ok .getTime
  | 0xA6 => .ok .getDate
  | 0xA7 => .ok .getLogEnable
  | 0xB0 => withOperand sel (decodeU16 ops) fun x =>
      withOperand sel (decodeU16 x.2) fun y => .ok (.render x.1 y.1)
  | 0xB1 => .ok .publish
  | 0xB2 => .ok .displayStep
  | 0xC0 => .ok .scanStep
  | 0xD0 => if ops = [] then .error (.badOperand sel) else .ok (.receiveChunk ops)
  | 0xD1 => .ok .connect
  | 0xD2 => .ok .disconnect
  | 0xD3 => .ok .protoIdle
  | 0xE0 => withOperand sel (ops.head?.bind decodeSlot) fun x => .ok (.kick x)
  | 0xE1 => .ok .supervisorCycle
  | 0xE2 => withOperand sel (decodeNat ops) fun x => .ok (.watchdogInit x.1)
  | 0xE3 => .ok .watchdogKick
  | 0xF0 => withOperand sel (decodeNat ops) fun x => .ok (.timeAdvance (x.1 + 1))
  | _ => .error (.unknownOpsel sel)

/-- The operation a request asks for, or why it asks for none. A frame request holds one whole legal frame; bytes
after it are ignored. -/
def decodeRequest : Request → Except DecodeError Instr
  | .port [] => .error .empty
  | .port (sel :: ops) => decodeOp sel ops
  | .frame bytes =>
    match detectFrame bytes with
    | .frame h fc args _ => .ok ((decodePdu fc args).instr h)
    | .wait => .error .badFrame
    | .bad => .error .badFrame

/-! ## The encoder -/

/-- The bytes of a Nat operand, given at least as much fuel as it has 7-bit digits after the first. -/
def encodeNatFuel : Nat → Nat → List Byte
  | 0, n => [BitVec.ofNat 8 (n % 128)]
  | fuel + 1, n =>
    if n < 128 then [BitVec.ofNat 8 n]
    else BitVec.ofNat 8 (n % 128 + 128) :: encodeNatFuel fuel (n / 128)

/-- The bytes of a Nat operand (the inverse of `decodeNat`; log 3). -/
def encodeNat (n : Nat) : List Byte := encodeNatFuel n.log2 n

/-- The byte that names a liveness slot. -/
def encodeSlot : Slot → Byte
  | .proto => 0
  | .logger => 1
  | .display => 2
  | .supervisor => 3

/-- The PDU of a 0x03 request; without its fields, the function code alone. -/
def encodeReadPdu : Option ReadReq → List Byte
  | none => [0x03]
  | some r => 0x03 :: (bytes16 r.addr ++ bytes16 r.qty)

/-- The PDU of a 0x06 request; without its fields, the function code alone. -/
def encodeWritePdu : Option WriteReq → List Byte
  | none => [0x06]
  | some r => 0x06 :: (bytes16 r.addr ++ bytes16 r.value)

/-- The PDU of a 0x10 request; without its fields, the function code alone. -/
def encodeWriteManyPdu : Option WriteManyReq → List Byte
  | none => [0x10]
  | some r => 0x10 :: (bytes16 r.addr ++ bytes16 r.qty ++ [r.bc] ++ r.data)

/-- The request that asks for an operation: a host command is its frame (30_encoding.md R66, R70 to R73, R86), a
port operation its selector (30_encoding.md R84) and operands. -/
def encode : Instr → Request
  | .readRegisters h req => .frame (frameBytes h (encodeReadPdu req))
  | .writeSingle h req => .frame (frameBytes h (encodeWritePdu req))
  | .writeMultiple h req => .frame (frameBytes h (encodeWriteManyPdu req))
  | .unsupported h fc => .frame (frameBytes h [fc])
  | .read a => .port (0xA0 :: encodeNat a)
  | .readBlock a q => .port (0xA1 :: (encodeNat a ++ if q = 0 then [] else encodeNat (q - 1)))
  | .write a v => .port (0xA2 :: (encodeNat a ++ bytes16 v))
  | .writeBlock a vs => .port (0xA3 :: (encodeNat a ++ vs.flatMap bytes16))
  | .consumeChangedTime => .port [0xA4]
  | .getTime => .port [0xA5]
  | .getDate => .port [0xA6]
  | .getLogEnable => .port [0xA7]
  | .render m sec => .port (0xB0 :: (bytes16 m ++ bytes16 sec))
  | .publish => .port [0xB1]
  | .displayStep => .port [0xB2]
  | .scanStep => .port [0xC0]
  | .receiveChunk chunk => .port (0xD0 :: chunk)
  | .connect => .port [0xD1]
  | .disconnect => .port [0xD2]
  | .protoIdle => .port [0xD3]
  | .kick slot => .port [0xE0, encodeSlot slot]
  | .supervisorCycle => .port [0xE1]
  | .watchdogInit t => .port (0xE2 :: encodeNat t)
  | .watchdogKick => .port [0xE3]
  | .timeAdvance d => .port (0xF0 :: encodeNat (d - 1))

/-! ## Program lines (30_encoding.md R85, R86) -/

/-- The operations a program line stands for, in a configuration whose WDT_TIMEOUT is `wdtTimeout` (30_encoding.md
R85); a pseudo-instruction is the SEND of its whole frame (R86). -/
def ProgramLine.expand (wdtTimeout : Nat) : ProgramLine → List Instr
  | .connect => [.connect]
  | .disconnect => [.disconnect]
  | .send chunk => [.receiveChunk chunk]
  | .disp => [.displayStep]
  | .scan => [.scanStep]
  | .sup => [.supervisorCycle]
  | .wdinit => [.watchdogInit wdtTimeout]
  | .idle => [.protoIdle]
  | .kick slot => [.kick slot]
  | .time d => [.timeAdvance d]
  | .logrd a q => [.readBlock a q]
  | .rd03 t u a q => [.receiveChunk (frameBytes ⟨t, u⟩ (encodeReadPdu (some ⟨a, q⟩)))]
  | .wr06 t u a v => [.receiveChunk (frameBytes ⟨t, u⟩ (encodeWritePdu (some ⟨a, v⟩)))]
  | .wr10 t u a vs => [.receiveChunk (frameBytes ⟨t, u⟩ (encodeWriteManyPdu
      (some ⟨a, BitVec.ofNat 16 vs.length, BitVec.ofNat 8 (2 * vs.length), vs.flatMap bytes16⟩)))]
  | .fc t u f ds => [.receiveChunk (frameBytes ⟨t, u⟩ (f :: ds))]
  | .comment _ => []

/-! ## Words of the opcode table -/

/-- The `n` bytes of `w`, the least significant first: the table's numbering, where the second byte is bits 15..8. -/
def wordBytes : Nat → Nat → List Byte
  | 0, _ => []
  | n + 1, w => BitVec.ofNat 8 w :: wordBytes n (w / 256)

/-- The selectors of the OPSEL table of 30_encoding.md R84. -/
def isOpsel (b : Byte) : Bool :=
  [0xA0, 0xA1, 0xA2, 0xA3, 0xA4, 0xA5, 0xA6, 0xA7, 0xB0, 0xB1, 0xB2, 0xC0, 0xD0, 0xD1, 0xD2, 0xD3,
    0xE0, 0xE1, 0xE2, 0xE3, 0xF0].contains b.toNat

/-- A word of spec/opcode_table.json as a request, all bits above `nbits` zero. A row of the portop format is a
selector; every other word is of the pdu format, the first bytes of the PDU of a frame with TID 0 and UID 0 and the
longest legal PDU, 252 bytes (30_encoding.md R67). -/
def tableRequest (nbits w : Nat) : Request :=
  let bytes := wordBytes ((nbits + 7) / 8) w
  if isOpsel (bytes.headD 0) then .port (bytes ++ List.replicate 4 0)
  else .frame (frameBytes ⟨0, 0⟩ ((bytes ++ List.replicate 252 0).take 252))

/-- The operation the decoder reads from a word of spec/opcode_table.json. -/
def decodeTableWord (nbits w : Nat) : Option Instr :=
  match decodeRequest (tableRequest nbits w) with
  | .ok i => some i
  | .error _ => none

end Sys2Proof
end

