-- ==== Sys2Proof/Config.lean ====
section
/-! DEFINITION. The configuration record of the block (00_scope.md R7, R8, R9; 10_state.md R40) and the model's
free values. A configuration is fixed when the block leaves reset and no operation changes it. -/

namespace Sys2Proof

/-- BIT_ORDER of 00_scope.md R8 (43_scan_engine.md R145). -/
inductive BitOrder where
  | msbFirst
  | reversed
  deriving DecidableEq, Repr

/-- One bit of a folded row as a function of the bitmap: the pixel (y, x), and the Boolean operations. Every function
of a bitmap of a given width is one (`exists_evalPixel_eq` in Laws/Scan.lean). -/
inductive PixelExpr where
  | const (b : Bool)
  | pixel (y x : Nat)
  | not (e : PixelExpr)
  | and (e f : PixelExpr)
  | or (e f : PixelExpr)
  deriving DecidableEq, Repr

/-- FOLD of 00_scope.md R8: FOLD_MOD, or any other function from a bitmap and a scan row to `len` bits
(43_scan_engine.md R144), given as a table: `rows[s][c]` is the bit of scan row s and column c (log 11). -/
inductive Fold where
  | mod
  | other (len : Nat) (rows : List (List PixelExpr))
  deriving DecidableEq, Repr

/-- The panel's wiring (43_scan_engine.md R149), which is outside the block: `columns[i]` is the LED column that position
i of LR lights, `rows[s]` the logical rows that scan row s lights. A position or a scan row without an entry lights no
LED (log 27). -/
structure PanelWiring where
  columns : List Nat
  rows : List (List Nat)
  deriving DecidableEq, Repr

/-- The parameters of 00_scope.md R8, in its order, and three more: `timeUnitUs`, the unit of `now` (10_state.md R37),
`wiring`, the panel's (43_scan_engine.md R149, 93_implementation_defined.md I12), and the model's own `scanStepNs`, the duration of one scan step in nanoseconds for a model that measures time, `none` for
the untimed model (70_reset_and_hazards.md R189; log 12). -/
structure Config where
  /-- PANEL_W, the width of one panel in columns. -/
  panelW : Nat
  /-- CHAIN, the number of chained panels. -/
  chain : Nat
  /-- ADDR_LINES, the row address lines wired. -/
  addrLines : Nat
  bitOrder : BitOrder
  fold : Fold
  mirror : Bool
  swap : Bool
  /-- GLYPH[d][r]: row r, top row first, of the glyph of digit d; bit 4 is the leftmost column
  (42_display_render.md R130). -/
  glyph : Vector (Vector (BitVec 5) 7) 10
  /-- X_MIN[0..2], the left columns of the minute digits. -/
  xMin0 : Int
  xMin1 : Int
  xMin2 : Int
  /-- X_SEC[0..1], the left columns of the second digits. -/
  xSec0 : Int
  xSec1 : Int
  /-- X_BLANK, the blank leading slot of the seconds field; it draws nothing. -/
  xBlank : Int
  /-- Y_OFF, the top row of every glyph. -/
  yOff : Int
  /-- F_SCAN, the scan interrupt frequency in Hz. -/
  fScan : Nat
  /-- BUF_CAP, the reassembly buffer's capacity in bytes. -/
  bufCap : Nat
  /-- NQ_DEPTH, the notification queue's capacity. -/
  nqDepth : Nat
  /-- SUP_PERIOD, in the unit of `now` (10_state.md R37). Timing only (60_exceptions.md R172). -/
  supPeriod : Nat
  /-- WDT_TIMEOUT, in the unit of `now` (10_state.md R37). -/
  wdtTimeout : Nat
  /-- WDT_MARGIN, in the unit of `now` (10_state.md R37). -/
  wdtMargin : Nat
  resetFill : U16
  /-- How many microseconds one unit of `now` is: the unit is a parameter (10_state.md R37, 93_implementation_defined.md
  I5). No operation reads it; it says what the periods above stand for (log 25). -/
  timeUnitUs : Nat
  /-- The panel's wiring; no operation of the block reads it, and it says which LEDs the panel lights (log 27). -/
  wiring : PanelWiring
  scanStepNs : Option Nat
  deriving DecidableEq, Repr

namespace Config

/-- W = PANEL_W x CHAIN (00_scope.md R8). -/
def width (c : Config) : Nat := c.panelW * c.chain

/-- R, the number of scan rows: 8 when the third address line is wired, else 4 (00_scope.md R7,
43_scan_engine.md R142). -/
def scanRows (c : Config) : Nat := if c.addrLines = 3 then 8 else 4

/-- L, the bits shifted in one scan step, derived from FOLD (00_scope.md R8). -/
def shiftLen (c : Config) : Nat :=
  match c.fold with
  | .mod => c.width
  | .other len _ => len

/-- THRESH = WDT_TIMEOUT - WDT_MARGIN (00_scope.md R8). -/
def thresh (c : Config) : Nat := c.wdtTimeout - c.wdtMargin

/-- The fixture glyph table TF of 95_test_vectors.md section 3, the default of 00_scope.md R8. -/
def glyphTF : Vector (Vector (BitVec 5) 7) 10 := #v[
  #v[0x0E, 0x11, 0x13, 0x15, 0x19, 0x11, 0x0E],
  #v[0x04, 0x0C, 0x04, 0x04, 0x04, 0x04, 0x0E],
  #v[0x0E, 0x11, 0x01, 0x02, 0x04, 0x08, 0x1F],
  #v[0x1F, 0x02, 0x04, 0x02, 0x01, 0x11, 0x0E],
  #v[0x02, 0x06, 0x0A, 0x12, 0x1F, 0x02, 0x02],
  #v[0x1F, 0x10, 0x1E, 0x01, 0x01, 0x11, 0x0E],
  #v[0x06, 0x08, 0x10, 0x1E, 0x11, 0x11, 0x0E],
  #v[0x1F, 0x01, 0x02, 0x04, 0x08, 0x08, 0x08],
  #v[0x0E, 0x11, 0x11, 0x0E, 0x11, 0x11, 0x0E],
  #v[0x0E, 0x11, 0x11, 0x0F, 0x01, 0x02, 0x0C]]

/-- The defaults of 00_scope.md R8. WDT_TIMEOUT and WDT_MARGIN are OPEN there (92_eei_decisions.md D46): DESIGN
CHOICE, the values 1000 and 100 of 95_test_vectors.md section 2.9, unsafe for a claim about this one configuration
(log 2). The unit of `now` is OPEN too (10_state.md R37, 92_eei_decisions.md D29): DESIGN CHOICE, one millisecond, in
which the spec's 250 ms of SUP_PERIOD is 250, unsafe for a claim about real time in this one configuration (log 25). So is the
panel's wiring (43_scan_engine.md R149, 92_eei_decisions.md D13): DESIGN CHOICE, position i lights column i and scan row s
the rows s, s+4, s+8 and s+12, unsafe for a claim about the LEDs in this one configuration (log 27). -/
def default : Config where
  panelW := 32
  chain := 1
  addrLines := 2
  bitOrder := .msbFirst
  fold := .mod
  mirror := false
  swap := false
  glyph := glyphTF
  xMin0 := 0
  xMin1 := 6
  xMin2 := 12
  xSec0 := 21
  xSec1 := 27
  xBlank := 15
  yOff := 4
  fScan := 4000
  bufCap := 260
  nqDepth := 1
  supPeriod := 250
  wdtTimeout := 1000
  wdtMargin := 100
  resetFill := 0
  timeUnitUs := 1000
  wiring := ⟨List.range 32, [[0, 4, 8, 12], [1, 5, 9, 13], [2, 6, 10, 14], [3, 7, 11, 15]]⟩
  scanStepNs := none

/-- Bit (y, x) of the render buffer after the `n`-th watchdog reset, which the spec leaves unspecified
(10_state.md R26). A free value (log 8; safe). -/
opaque freeBit : Nat → Nat → Nat → Bool

/-- WDT_CNT after the `n`-th watchdog reset, which the spec leaves unspecified (10_state.md R38). A free value
(log 8; safe). -/
opaque freeCount : Nat → Nat

end Config

end Sys2Proof
end

