-- ==== Sys2Proof/Machine/State.lean ====
section
/-! DEFINITION. The state of the block (10_state.md), the reasons a step can stop, and the state after reset
(70_reset_and_hazards.md R177, R179). -/

namespace Sys2Proof.Machine

/-- The fault reasons of 60_exceptions.md R160. -/
inductive Fault where
  /-- SCAN_OVERRUN (70_reset_and_hazards.md R189). Raised by `step` on a state whose FAULT it is; SCAN_STEP sets
  FAULT in a configuration that gives it a duration. Safe: the spec's own stop (93_implementation_defined.md I15). -/
  | scanOverrun
  deriving DecidableEq, Repr

/-- The refusals of 60_exceptions.md R160, and two of the model's. -/
inductive Refusal where
  /-- An instruction that has no meaning yet. Raised by `exec` only. Safe. -/
  | notModelled (mnemonic : String)
  /-- BadConfig: a configuration outside 00_scope.md R8, R10 or 70_reset_and_hazards.md R183. Raised by `step`. Safe:
  the spec's own refusal. -/
  | badConfig
  /-- UnknownOpsel: a selector that names no operation (30_encoding.md R84). Raised by `step`. Safe: the spec's own
  refusal. -/
  | unknownOpsel (sel : Byte)
  /-- ZeroQuantity: READ_BLOCK with q = 0 or WRITE_BLOCK without values (40_register_file.md R92). Raised by their
  meanings. Safe: the spec's own refusal. -/
  | zeroQuantity
  /-- A scheduled request that is no operation: no bytes, operands missing, a byte that names no slot, or a byte
  string that is no whole legal frame. Raised by `step`. Safe: no operation of the spec is concerned (log 3, 4). -/
  | malformedRequest
  deriving DecidableEq, Repr

/-- The Time-Change Latch TL (10_state.md R20). -/
structure TimeLatch where
  dirty : Bool
  lastMin : U16
  lastSec : U16
  deriving DecidableEq, Repr

/-- The pin outputs: the last level driven on each (10_state.md R28). `addr` is the row address, a number. -/
structure Pins where
  oe : Bool
  addr : Nat
  data : Bool
  clk : Bool
  lat : Bool
  deriving DecidableEq, Repr

/-- One pin event (pin, level) (10_state.md R29, 30_encoding.md R83). -/
inductive PinEvent where
  | oe (level : Bool)
  | addr (row : Nat)
  | data (level : Bool)
  | clk (level : Bool)
  | lat (level : Bool)
  deriving DecidableEq, Repr

/-- The panel reference state (10_state.md R30): SR, the shifted bits, and LR, the latched ones. SHOWN is computed
from them (`State.shown`). -/
structure Panel where
  sr : List Bool
  lr : List Bool
  deriving DecidableEq, Repr

/-- The connection state CONN (10_state.md R32). -/
inductive Conn where
  | closed
  | opened
  deriving DecidableEq, Repr

/-- The liveness table LT (10_state.md R36). -/
structure Liveness where
  proto : Nat
  logger : Nat
  display : Nat
  supervisor : Nat
  deriving DecidableEq, Repr

/-- A supervisor's iteration under way (60_exceptions.md R166, 20_memory.md R61): the slot it reads next, the slots
after that, and whether every slot it has read was healthy. -/
structure SupervisorCycle where
  next : Slot
  more : List Slot
  healthy : Bool
  deriving DecidableEq, Repr

/-- What an operation returns with `Ok` (00_scope.md R13; 40_register_file.md R95 to R103). -/
inductive Result where
  | unit
  | word (v : U16)
  | words (vs : List U16)
  | change (p : Option (U16 × U16))
  | time (m sec : U16)
  | date (y m d : U16)
  deriving DecidableEq, Repr

/-- The resync reasons of 60_exceptions.md R155. -/
inductive ResyncReason where
  | overflow
  | badHeader
  | malformed
  deriving DecidableEq, Repr

/-- The outcomes an operation leaves in the state (00_scope.md R13); a refusal leaves no state. -/
inductive OpOutcome where
  | ok (r : Result)
  | notFound
  | exc (code : Byte)
  | resync (r : ResyncReason)
  | fault (f : Fault)
  deriving DecidableEq, Repr

/-- The state of the block, in the order of 10_state.md, its configuration, and the model's own fields. -/
structure State where
  /-- The configuration (10_state.md R40; 00_scope.md R9); no operation changes it. -/
  cfg : Config
  /-- REG, the Register Table (10_state.md R15). -/
  reg : Vector U16 32
  /-- TL, the Time-Change Latch (10_state.md R20). -/
  tl : TimeLatch
  /-- PB, the published bitmap (10_state.md R24). -/
  pb : Bitmap
  /-- RB, the private render buffer (10_state.md R26). -/
  rb : Bitmap
  /-- SROW, the scan row counter (10_state.md R27). -/
  srow : Nat
  /-- OE, ADDR, DATA, CLK, LAT (10_state.md R28). -/
  pins : Pins
  /-- PT, the output trace (10_state.md R29). -/
  pt : List (Traced PinEvent)
  /-- SR and LR of the panel reference state (10_state.md R30). -/
  panel : Panel
  /-- BUF, the reassembly buffer (10_state.md R31). -/
  buf : List Byte
  /-- CONN, the connection state (10_state.md R32). -/
  conn : Conn
  /-- RT, the reply trace (10_state.md R33). -/
  rt : List (Traced (List Byte))
  /-- NQ, the notification queue, oldest first (10_state.md R34). -/
  nq : List (U16 × U16)
  /-- LN, the logger notification trace (10_state.md R35). -/
  ln : List (Traced (U16 × U16))
  /-- LT, the liveness table (10_state.md R36). -/
  lt : Liveness
  /-- `now` (10_state.md R37). -/
  now : Nat
  /-- WDT_RUN (10_state.md R38). -/
  wdtRun : Bool
  /-- WDT_CNT (10_state.md R38). -/
  wdtCnt : Nat
  /-- The supervisor's iteration that other agents have interrupted between two of its slot reads, if there is one
  (20_memory.md R61, 60_exceptions.md R166; log 14). -/
  sup : Option SupervisorCycle
  /-- FAULT (10_state.md R39). -/
  fault : Option Fault
  /-- The model's own: the agent steps the environment has scheduled, the next one first (log 1, 14). -/
  pending : List Turn
  /-- The model's own: the outcomes of the last step, its own outcome last (log 6). -/
  outs : List OpOutcome
  /-- The model's own: how many watchdog resets have drawn free values (log 8). -/
  free : Nat
  deriving DecidableEq, Repr

namespace State

/-- The Register Table after reset (10_state.md R16): the time 0:0, the date 1970-01-01, log enable 1, RESET_FILL in
registers 6 to 31. -/
def resetTable (fill : U16) : Vector U16 32 := #v[
  0, 0, 1970, 1, 1, 1, fill, fill, fill, fill, fill, fill, fill, fill, fill, fill,
  fill, fill, fill, fill, fill, fill, fill, fill, fill, fill, fill, fill, fill, fill, fill, fill]

/-- The state after a reset and steps 1 to 4 of the boot (70_reset_and_hazards.md R179, R182), with empty traces, for
a configuration, a time, and the contents of the two pieces the spec leaves unspecified, RB and WDT_CNT. -/
def boot (cfg : Config) (now : Nat) (rb : Bitmap) (wdtCnt : Nat) : State where
  cfg := cfg
  reg := resetTable cfg.resetFill
  tl := ⟨false, 0, 0⟩
  pb := Bitmap.blank cfg.width
  rb := rb
  srow := 0
  pins := ⟨false, 0, false, false, false⟩
  pt := []
  panel := ⟨List.replicate cfg.shiftLen false, List.replicate cfg.shiftLen false⟩
  buf := []
  conn := .closed
  rt := []
  nq := []
  ln := []
  lt := ⟨now, now, now, now⟩
  now := now
  wdtRun := false
  wdtCnt := wdtCnt
  sup := none
  fault := none
  pending := []
  outs := []
  free := 0

/-- The block right after power-on (70_reset_and_hazards.md R177, R179, R182) in the default configuration of
00_scope.md R8. The values the spec leaves open are the model's, DESIGN CHOICE, unsafe: RB blank (log 7), WDT_CNT 0
(log 9), `now` 0 (log 10), WDT_TIMEOUT 1000 and WDT_MARGIN 100 (log 2), the unit of `now`, one millisecond
(log 25), and the panel's wiring (log 27). -/
def reset : State := boot Config.default 0 (Bitmap.blank 32) 0

end State

end Sys2Proof.Machine
end

