-- ==== Sys2Proof/Machine/Ops.lean ====
section
/-! DEFINITION. The named operations over the state: the register store, replies, exception replies and resyncs,
notifications, pin events, the liveness table, and the block reset, which is the one forced transfer the block has
(60_exceptions.md R161, R170). -/

namespace Sys2Proof.Machine

/-! ## The configuration check -/

/-- FOLD is of the type of 43_scan_engine.md R144: it gives every scan row L bits (70_reset_and_hazards.md R183). -/
def foldLegal (c : Config) : Bool :=
  match c.fold with
  | .mod => true
  | .other len rows => decide (rows.length = c.scanRows) && rows.all fun row => decide (row.length = len)

/-- The requirements of 00_scope.md R8, R10 and 70_reset_and_hazards.md R183. That GLYPH is defined for every digit
holds by its type. -/
def configLegal (c : Config) : Bool :=
  decide (1 ≤ c.panelW) && decide (1 ≤ c.chain) && (decide (c.addrLines = 2) || decide (c.addrLines = 3))
    && !c.mirror && !c.swap && decide (0 < c.fScan) && decide (259 ≤ c.bufCap) && decide (1 ≤ c.nqDepth)
    && decide (0 < c.supPeriod) && decide (0 < c.wdtTimeout) && decide (c.wdtMargin < c.wdtTimeout) && foldLegal c

/-! ## Outcomes -/

/-- Start a step: no outcome yet (log 6). -/
def State.begin (s : State) : State := { s with outs := [] }

/-- Record one more outcome of the step (00_scope.md R13; log 6). -/
def State.push (o : OpOutcome) (s : State) : State := { s with outs := s.outs ++ [o] }

/-- End a step that has one outcome (00_scope.md R13; log 6). -/
def State.done (o : OpOutcome) (s : State) : State := { s with outs := [o] }

/-! ## The register store -/

/-- The bounds check of 40_register_file.md R94, computed in Nat. -/
abbrev InBounds (a q : Nat) : Prop := a + q ≤ 32

/-- `REG[a]`, for `a` in 0..31 (00_scope.md R12). -/
def State.regAt (s : State) (a : Nat) : U16 := s.reg[a]?.getD 0

/-- `[REG[a], ..., REG[a+q-1]]`, one snapshot (20_memory.md R52). -/
def State.regsAt (s : State) (a q : Nat) : List U16 := (List.range q).map fun i => s.regAt (a + i)

/-- `REG[a+i] <- vs[i]` for every i, at one instant (20_memory.md R51). -/
def storeRegs (r : Vector U16 32) (a : Nat) : List U16 → Vector U16 32
  | [] => r
  | v :: vs => storeRegs (r.setIfInBounds a v) (a + 1) vs

/-- READ of 40_register_file.md R95; `none` is NotFound. -/
def storeRead (a : Nat) (s : State) : Option U16 :=
  if InBounds a 1 then some (s.regAt a) else none

/-- READ_BLOCK of 40_register_file.md R96 for q of at least 1; `none` is NotFound. -/
def storeReadBlock (a q : Nat) (s : State) : Option (List U16) :=
  if InBounds a q then some (s.regsAt a q) else none

/-! ## Replies, exception replies, resyncs (41_host_commands.md R115, R119; 60_exceptions.md R154, R155) -/

/-- SendReply (41_host_commands.md R115): one reply frame, with the header of 30_encoding.md R74. -/
def sendReply (h : FrameHead) (rpdu : List Byte) (s : State) : State :=
  { s with rt := s.rt ++ [.item (frameBytes h rpdu)] }

/-- A host command that succeeds: its reply, outcome `Ok(())`. -/
def replyOk (h : FrameHead) (rpdu : List Byte) (s : State) : State :=
  (sendReply h rpdu s).push (.ok .unit)

/-- RAISING AN EXCEPTION, the one operation every host command shares (00_scope.md R12 `raise Exc(code)`): the
exception reply (fc OR 0x80, code) of 30_encoding.md R78, and the outcome; nothing else changes
(60_exceptions.md R154, R161). -/
def raiseExc (h : FrameHead) (fc code : Byte) (s : State) : State :=
  (sendReply h [fc ||| 0x80, code] s).push (.exc code)

/-- A resync (60_exceptions.md R155): BUF is cleared and no reply is sent. -/
def resync (r : ResyncReason) (s : State) : State :=
  { s with buf := [], outs := s.outs ++ [.resync r] }

/-! ## Notifications (41_host_commands.md R117, R118) -/

/-- NotifyDisplay: push to NQ, or drop the notification when NQ is full. -/
def notifyDisplay (m sec : U16) (s : State) : State :=
  { s with nq := if s.nq.length < s.cfg.nqDepth then s.nq ++ [(m, sec)] else s.nq }

/-- notify_logger: append to LN. -/
def notifyLogger (m sec : U16) (s : State) : State :=
  { s with ln := s.ln ++ [.item (m, sec)] }

/-! ## Pin events and the reference panel (43_scan_engine.md R146, R149) -/

/-- The last `n` entries of a list. -/
def lastN {α : Type} (n : Nat) (xs : List α) : List α := xs.drop (xs.length - n)

/-- The level an event leaves on its pin (10_state.md R28). -/
def Pins.drive (p : Pins) : PinEvent → Pins
  | .oe b => { p with oe := b }
  | .addr n => { p with addr := n }
  | .data b => { p with data := b }
  | .clk b => { p with clk := b }
  | .lat b => { p with lat := b }

/-- What the panel of `len` bits does on an event, given the pin levels before it (43_scan_engine.md R149): it
samples DATA on a rising CLK and latches on a rising LAT. -/
def Panel.sample (len : Nat) (p : Pins) (q : Panel) : PinEvent → Panel
  | .clk b => if b && !p.clk then { q with sr := lastN len (q.sr ++ [p.data]) } else q
  | .lat b => if b && !p.lat then { q with lr := q.sr } else q
  | .oe _ => q
  | .addr _ => q
  | .data _ => q

/-- `emit(pin, level)` (00_scope.md R12, 43_scan_engine.md R146): the pin's level, the trace PT, and what the panel
makes of it. -/
def emit (s : State) (e : PinEvent) : State :=
  { s with
    pins := s.pins.drive e
    panel := s.panel.sample s.cfg.shiftLen s.pins e
    pt := s.pt ++ [.item e] }

/-- Emit events in order. -/
def emitAll (s : State) (es : List PinEvent) : State := es.foldl emit s

/-- The address lines: line A is bit 0 of ADDR, B bit 1, C bit 2 (10_state.md R28, 43_scan_engine.md R142). -/
def Pins.line (p : Pins) (k : Nat) : Bool := p.addr.testBit k

/-- SHOWN (10_state.md R30): the scan row and the latched bits while OE = 1, nothing lit while OE = 0. -/
def State.shown (s : State) : Option (Nat × List Bool) :=
  if s.pins.oe then some (s.pins.addr, s.panel.lr) else none

/-- The LED in logical row y and column x is lit (43_scan_engine.md R149): the scan row shown lights row y, and a lit
position of LR lights column x. Which rows and columns those are is the panel's wiring (log 27). -/
def State.ledLit (s : State) (y x : Nat) : Bool :=
  match s.shown with
  | none => false
  | some (row, bits) =>
    (s.cfg.wiring.rows.getD row []).contains y
      && (List.range bits.length).any fun i => bits.getD i false && s.cfg.wiring.columns[i]? == some x

/-! ## The liveness table (60_exceptions.md R165) -/

/-- LT[i]. -/
def Liveness.get (l : Liveness) : Slot → Nat
  | .proto => l.proto
  | .logger => l.logger
  | .display => l.display
  | .supervisor => l.supervisor

/-- `LT[i] <- t`. -/
def Liveness.put (l : Liveness) (t : Nat) : Slot → Liveness
  | .proto => { l with proto := t }
  | .logger => { l with logger := t }
  | .display => { l with display := t }
  | .supervisor => { l with supervisor := t }

/-- `LT[i] <- now` (60_exceptions.md R165). -/
def kickSlot (i : Slot) (s : State) : State := { s with lt := s.lt.put s.now i }

/-- WATCHDOG_KICK of 60_exceptions.md R168: reload the countdown, if it runs. -/
def reloadWatchdog (s : State) : State :=
  { s with wdtCnt := if s.wdtRun then s.cfg.wdtTimeout else s.wdtCnt }

/-! ## The block reset -/

/-- The contents of RB after the `n`-th watchdog reset: unspecified, a free value of PB's shape (10_state.md R26;
log 8). -/
def freeBitmap (w n : Nat) : Bitmap :=
  ⟨Vector.ofFn fun y => (List.range w).map fun x => Config.freeBit n y x⟩

/-- The block reset forced by the watchdog (70_reset_and_hazards.md R177; 60_exceptions.md R170): every piece of state
at its reset value, the configuration and `now` kept, every LT slot `now`, one RESET marker on each trace, RB and
WDT_CNT unspecified. The environment's schedule is not the block's and stays (log 1). -/
def blockReset (s : State) : State :=
  { State.boot s.cfg s.now (freeBitmap s.cfg.width s.free) (Config.freeCount s.free) with
    pt := s.pt ++ [.reset]
    rt := s.rt ++ [.reset]
    ln := s.ln ++ [.reset]
    pending := s.pending
    outs := s.outs
    free := s.free + 1 }

end Sys2Proof.Machine
end

