-- ==== Sys2Proof/Machine/Operands.lean ====
section
/-! DEFINITION. The operand forms: the quantity checks of the host commands, and the clamp and digit decomposition of
the render operands. -/

namespace Sys2Proof.Machine

/-- The quantity of a read is in 1..125 (41_host_commands.md R111, 30_encoding.md R70). -/
def readQtyLegal (r : ReadReq) : Bool := decide (1 ≤ r.qty.toNat) && decide (r.qty.toNat ≤ 125)

/-- The quantity of a write multiple is in 1..123, the byte count is twice the quantity, and all the value bytes are
there (41_host_commands.md R113). -/
def writeManyLegal (r : WriteManyReq) : Bool :=
  decide (1 ≤ r.qty.toNat) && decide (r.qty.toNat ≤ 123) && decide (r.bc.toNat = 2 * r.qty.toNat)
    && decide (r.bc.toNat ≤ r.data.length)

/-- The values of a write multiple whose quantity is legal (30_encoding.md R72). -/
def writeManyValues (r : WriteManyReq) : List U16 := wordsOf (r.data.take r.bc.toNat)

/-- `min(m, 999)` (42_display_render.md R128). -/
def clampMinutes (m : U16) : Nat := min m.toNat 999

/-- `min(s, 59)` (42_display_render.md R128). -/
def clampSeconds (sec : U16) : Nat := min sec.toNat 59

/-- dm2, dm1, dm0 of clamped minutes (42_display_render.md R129). -/
def minuteDigit (m : U16) : Nat → Nat
  | 0 => clampMinutes m % 10
  | 1 => clampMinutes m / 10 % 10
  | _ => clampMinutes m / 100

/-- ds1, ds0 of clamped seconds (42_display_render.md R129). -/
def secondDigit (sec : U16) : Nat → Nat
  | 0 => clampSeconds sec % 10
  | _ => clampSeconds sec / 10

end Sys2Proof.Machine
end

