-- ==== Sys2Proof/Machine/Display.lean ====
section
/-! DEFINITION. The display task's operations (42_display_render.md): drawing glyphs, RENDER, PUBLISH, DISPLAY_STEP. -/

namespace Sys2Proof.Machine

/-- The bit (y, x) of a bitmap, 0 outside it (10_state.md R24). -/
def bitmapGet (b : Bitmap) (y x : Nat) : Bool := ((b.rows[y]?).getD []).getD x false

/-- Set the bit (y, x) of a bitmap, if it has one. -/
def bitmapLight (b : Bitmap) (y x : Nat) : Bitmap :=
  ⟨b.rows.setIfInBounds y (((b.rows[y]?).getD []).set x true)⟩

/-- Glyph pixel (r, c) of digit d is lit (42_display_render.md R130): bit 4 - c of GLYPH[d][r]. -/
def glyphLit (cfg : Config) (d r c : Nat) : Bool :=
  (((cfg.glyph[d]?).bind fun g => g[r]?).getD 0).getLsbD (4 - c)

/-- One pixel of DrawGlyph (42_display_render.md R132): set when it is lit and inside the bitmap, else dropped. -/
def drawPixel (cfg : Config) (d : Nat) (x y : Int) (r c : Nat) (b : Bitmap) : Bitmap :=
  if glyphLit cfg d r c = true ∧ 0 ≤ y + r ∧ y + r ≤ 15 ∧ 0 ≤ x + c ∧ x + c ≤ (cfg.width : Int) - 1 then
    bitmapLight b (y + r).toNat (x + c).toNat
  else b

/-- DrawGlyph(B, d, x, y) (42_display_render.md R132). -/
def drawGlyph (cfg : Config) (d : Nat) (x y : Int) (b : Bitmap) : Bitmap :=
  (List.range 7).foldl (fun b r => (List.range 5).foldl (fun b c => drawPixel cfg d x y r c b) b) b

/-- The bitmap RENDER draws (42_display_render.md R131, R133): the five digits on a zeroed bitmap. -/
def renderBitmap (cfg : Config) (m sec : U16) : Bitmap :=
  drawGlyph cfg (secondDigit sec 0) cfg.xSec1 cfg.yOff <|
  drawGlyph cfg (secondDigit sec 1) cfg.xSec0 cfg.yOff <|
  drawGlyph cfg (minuteDigit m 0) cfg.xMin2 cfg.yOff <|
  drawGlyph cfg (minuteDigit m 1) cfg.xMin1 cfg.yOff <|
  drawGlyph cfg (minuteDigit m 2) cfg.xMin0 cfg.yOff <|
  Bitmap.blank cfg.width

/-- RENDER into RB (42_display_render.md R133). -/
def renderTo (m sec : U16) (s : State) : State := { s with rb := renderBitmap s.cfg m sec }

/-- PB <- RB, all of it at one instant (42_display_render.md R134). -/
def publishBuffer (s : State) : State := { s with pb := s.rb }

/-- The work of one iteration of the display task (42_display_render.md R136). -/
def displayWork (s : State) : State :=
  match s.nq with
  | [] => s
  | p :: more => publishBuffer (renderTo p.1 p.2 { s with nq := more })

/-- RENDER (42_display_render.md R133). -/
def execRender (m sec : U16) (s : State) : Host.Outcome State Fault Refusal :=
  .next ((renderTo m sec s).done (.ok .unit))

/-- PUBLISH (42_display_render.md R134). -/
def execPublish (s : State) : Host.Outcome State Fault Refusal :=
  .next ((publishBuffer s).done (.ok .unit))

/-- DISPLAY_STEP (42_display_render.md R136, R139). -/
def execDisplayStep (s : State) : Host.Outcome State Fault Refusal :=
  .next ((kickSlot .display (displayWork s)).done (.ok .unit))

end Sys2Proof.Machine
end

