-- ==== Sys2Proof/Machine/Flags.lean ====
section
/-! DEFINITION. The flag computations: the Time-Change Latch, set by LatchEval and cleared by consume
(40_register_file.md R99, R100), the writes that run it (R97, R98), and the supervisor's health condition
(60_exceptions.md R166). -/

namespace Sys2Proof.Machine

/-- LatchEval on the current minutes and seconds (40_register_file.md R99): set the latch when they differ from the
last observed pair, otherwise leave it as it is. -/
def TimeLatch.eval (tl : TimeLatch) (m sec : U16) : TimeLatch :=
  if (m, sec) ≠ (tl.lastMin, tl.lastSec) then ⟨true, m, sec⟩ else tl

/-- LatchEval (40_register_file.md R99). -/
def latchEval (s : State) : State := { s with tl := s.tl.eval (s.regAt 0) (s.regAt 1) }

/-- Store values from register `a` on, then LatchEval when the range meets {0, 1}, which for at least one value is
when a <= 1 (40_register_file.md R97, R98, R99). -/
def storeAndEval (a : Nat) (vs : List U16) (s : State) : State :=
  let t := { s with reg := storeRegs s.reg a vs }
  if a ≤ 1 then latchEval t else t

/-- WRITE of 40_register_file.md R97; `none` is NotFound, with nothing written. -/
def storeWrite (a : Nat) (v : U16) (s : State) : Option State :=
  if InBounds a 1 then some (storeAndEval a [v] s) else none

/-- WRITE_BLOCK of 40_register_file.md R98 for at least one value; `none` is NotFound, with nothing written. -/
def storeWriteBlock (a : Nat) (vs : List U16) (s : State) : Option State :=
  if InBounds a vs.length then some (storeAndEval a vs s) else none

/-- What CONSUME_CHANGED_TIME returns (40_register_file.md R100). -/
def changedTime (s : State) : Option (U16 × U16) :=
  if s.tl.dirty then some (s.tl.lastMin, s.tl.lastSec) else none

/-- What CONSUME_CHANGED_TIME leaves: the latch clean (40_register_file.md R100). -/
def clearLatch (s : State) : State := { s with tl := { s.tl with dirty := false } }

/-- AfterWrite (41_host_commands.md R116): consume the latch; if it yields a pair, notify the display and then the
logger. -/
def afterWrite (s : State) : State :=
  match changedTime s with
  | some p => notifyLogger p.1 p.2 (notifyDisplay p.1 p.2 (clearLatch s))
  | none => clearLatch s

/-- The slot's age is below THRESH, strictly (60_exceptions.md R166). -/
def slotHealthy (s : State) (slot : Slot) : Bool := decide (s.now - s.lt.get slot < s.cfg.thresh)

/-- Every slot is healthy (60_exceptions.md R166). -/
def healthy (s : State) : Bool :=
  slotHealthy s .proto && slotHealthy s .logger && slotHealthy s .display && slotHealthy s .supervisor

end Sys2Proof.Machine
end

