-- ==== Sys2Proof/Machine/HostCommands.lean ====
section
/-! DEFINITION. The host command port (41_host_commands.md): the four commands, frame processing, and the connection
operations. The commands are total functions on states, so that frame processing can run several in one atomic step
(R106); as steps of their own they run on a frame the environment hands over (log 4). -/

namespace Sys2Proof.Machine

/-! ## Commands -/

/-- Exec03 (41_host_commands.md R111). -/
def runReadRegisters (h : FrameHead) (req : Option ReadReq) (s : State) : State :=
  match req with
  | none => resync .malformed s
  | some r =>
    if readQtyLegal r = false then raiseExc h 0x03 0x03 s
    else match storeReadBlock r.addr.toNat r.qty.toNat s with
      | none => raiseExc h 0x03 0x02 s
      | some vs => replyOk h (0x03 :: BitVec.ofNat 8 (2 * r.qty.toNat) :: vs.flatMap bytes16) s

/-- Exec06 (41_host_commands.md R112); the reply echoes the address and the value. -/
def runWriteSingle (h : FrameHead) (req : Option WriteReq) (s : State) : State :=
  match req with
  | none => resync .malformed s
  | some r =>
    match storeWrite r.addr.toNat r.value s with
    | none => raiseExc h 0x06 0x02 s
    | some t => replyOk h (0x06 :: (bytes16 r.addr ++ bytes16 r.value)) (afterWrite t)

/-- Exec10 (41_host_commands.md R113); the reply echoes the address and the quantity. -/
def runWriteMultiple (h : FrameHead) (req : Option WriteManyReq) (s : State) : State :=
  match req with
  | none => resync .malformed s
  | some r =>
    if writeManyLegal r = false then raiseExc h 0x10 0x03 s
    else match storeWriteBlock r.addr.toNat (writeManyValues r) s with
      | none => raiseExc h 0x10 0x02 s
      | some t => replyOk h (0x10 :: (bytes16 r.addr ++ bytes16 r.qty)) (afterWrite t)

/-- ExecOther (41_host_commands.md R114). -/
def runUnsupported (h : FrameHead) (fc : Byte) (s : State) : State := raiseExc h fc 0x01 s

/-- READ_REGISTERS (41_host_commands.md R111). -/
def execReadRegisters (h : FrameHead) (req : Option ReadReq) (s : State) : Host.Outcome State Fault Refusal :=
  .next (runReadRegisters h req s.begin)

/-- WRITE_SINGLE (41_host_commands.md R112). -/
def execWriteSingle (h : FrameHead) (req : Option WriteReq) (s : State) : Host.Outcome State Fault Refusal :=
  .next (runWriteSingle h req s.begin)

/-- WRITE_MULTIPLE (41_host_commands.md R113). -/
def execWriteMultiple (h : FrameHead) (req : Option WriteManyReq) (s : State) : Host.Outcome State Fault Refusal :=
  .next (runWriteMultiple h req s.begin)

/-- UNSUPPORTED (41_host_commands.md R114). -/
def execUnsupported (h : FrameHead) (fc : Byte) (s : State) : Host.Outcome State Fault Refusal :=
  .next (runUnsupported h fc s.begin)

/-! ## Frame processing -/

/-- ExecFrame (41_host_commands.md R110): the command a PDU holds. -/
def runPdu (h : FrameHead) (p : Pdu) (s : State) : State :=
  match p with
  | .read req => runReadRegisters h req s
  | .writeSingle req => runWriteSingle h req s
  | .writeMultiple req => runWriteMultiple h req s
  | .unsupported fc => runUnsupported h fc s

/-- The PDU is shorter than its command's fixed fields, so ExecFrame ends in Resync(Malformed)
(41_host_commands.md R110). -/
def pduMalformed : Pdu → Bool
  | .read req => req.isNone
  | .writeSingle req => req.isNone
  | .writeMultiple req => req.isNone
  | .unsupported _ => false

/-- ProcessBuffer (41_host_commands.md R108, R109): run every complete frame at the front of BUF, until bytes are
missing or a resync ends it. A frame takes 8 bytes or more, so fuel of the buffer's length is never used up. -/
def processBuffer : Nat → State → State
  | 0, s => s.push (.ok .unit)
  | fuel + 1, s =>
    match detectFrame s.buf with
    | .wait => s.push (.ok .unit)
    | .bad => resync .badHeader s
    | .frame h fc args rest =>
      if pduMalformed (decodePdu fc args) then runPdu h (decodePdu fc args) { s with buf := rest }
      else processBuffer fuel (runPdu h (decodePdu fc args) { s with buf := rest })

/-- The append and the frame processing of RECEIVE_CHUNK (41_host_commands.md R106, R107). -/
def acceptChunk (chunk : List Byte) (s : State) : State :=
  if s.cfg.bufCap < s.buf.length + chunk.length then resync .overflow s
  else processBuffer (s.buf.length + chunk.length + 1) { s with buf := s.buf ++ chunk }

/-- RECEIVE_CHUNK (41_host_commands.md R106). While CONN is closed it is not enabled: no step is taken and nothing
changes (log 5). -/
def execReceiveChunk (chunk : List Byte) (s : State) : Host.Outcome State Fault Refusal :=
  match s.conn with
  | .opened => .next (kickSlot .proto (acceptChunk chunk s.begin))
  | .closed => .next s.begin

/-! ## Connections -/

/-- CONNECT (41_host_commands.md R122). While CONN is open it is not enabled: nothing changes (log 5). -/
def execConnect (s : State) : Host.Outcome State Fault Refusal :=
  match s.conn with
  | .closed => .next ({ s with conn := .opened, buf := [] }.done (.ok .unit))
  | .opened => .next s.begin

/-- DISCONNECT (41_host_commands.md R123). While CONN is closed it is not enabled: nothing changes (log 5). -/
def execDisconnect (s : State) : Host.Outcome State Fault Refusal :=
  match s.conn with
  | .opened => .next ({ s with conn := .closed, buf := [] }.done (.ok .unit))
  | .closed => .next s.begin

/-- PROTO_IDLE (41_host_commands.md R124). -/
def execProtoIdle (s : State) : Host.Outcome State Fault Refusal :=
  .next ((kickSlot .proto s).done (.ok .unit))

end Sys2Proof.Machine
end

