-- ==== Sys2Proof/Machine/RegisterFile.lean ====
section
/-! DEFINITION. The register-file port operations (40_register_file.md R95 to R103). What an operation returns to its
caller stands in `outs` (log 6). -/

namespace Sys2Proof.Machine

/-- READ (40_register_file.md R95). -/
def execRead (a : Nat) (s : State) : Host.Outcome State Fault Refusal :=
  match storeRead a s with
  | some v => .next (s.done (.ok (.word v)))
  | none => .next (s.done .notFound)

/-- READ_BLOCK (40_register_file.md R96); q = 0 is refused (R92). -/
def execReadBlock (a q : Nat) (s : State) : Host.Outcome State Fault Refusal :=
  if q = 0 then .refused .zeroQuantity
  else match storeReadBlock a q s with
    | some vs => .next (s.done (.ok (.words vs)))
    | none => .next (s.done .notFound)

/-- WRITE (40_register_file.md R97). -/
def execWrite (a : Nat) (v : U16) (s : State) : Host.Outcome State Fault Refusal :=
  match storeWrite a v s with
  | some t => .next (t.done (.ok .unit))
  | none => .next (s.done .notFound)

/-- WRITE_BLOCK (40_register_file.md R98); an empty value list is refused (R92). -/
def execWriteBlock (a : Nat) (vs : List U16) (s : State) : Host.Outcome State Fault Refusal :=
  if vs = [] then .refused .zeroQuantity
  else match storeWriteBlock a vs s with
    | some t => .next (t.done (.ok .unit))
    | none => .next (s.done .notFound)

/-- CONSUME_CHANGED_TIME (40_register_file.md R100). -/
def execConsumeChangedTime (s : State) : Host.Outcome State Fault Refusal :=
  .next ((clearLatch s).done (.ok (.change (changedTime s))))

/-- GET_TIME (40_register_file.md R101): raw values, the latch untouched. -/
def execGetTime (s : State) : Host.Outcome State Fault Refusal :=
  .next (s.done (.ok (.time (s.regAt 0) (s.regAt 1))))

/-- GET_DATE (40_register_file.md R102): (year, month, day), no calendar check. -/
def execGetDate (s : State) : Host.Outcome State Fault Refusal :=
  .next (s.done (.ok (.date (s.regAt 2) (s.regAt 3) (s.regAt 4))))

/-- GET_LOG_ENABLE (40_register_file.md R103): the raw value. -/
def execGetLogEnable (s : State) : Host.Outcome State Fault Refusal :=
  .next (s.done (.ok (.word (s.regAt 5))))

end Sys2Proof.Machine
end

