-- ==== Sys2Proof/Machine/Scan.lean ====
section
/-! DEFINITION. The scan engine (43_scan_engine.md): fold, bit order, pin sequence, SCAN_STEP. -/

namespace Sys2Proof.Machine

/-- FOLD_MOD (43_scan_engine.md R144): column c of the pattern of scan row s ORs the logical rows s, s+R, ...,
s+(G-1)R with G = 16 / R. -/
def foldMod (cfg : Config) (pb : Bitmap) (s : Nat) : List Bool :=
  (List.range cfg.width).map fun c =>
    (List.range (16 / cfg.scanRows)).any fun g => bitmapGet pb (s + g * cfg.scanRows) c

/-- The value of a fold's bit on a bitmap (43_scan_engine.md R144). -/
def evalPixel (pb : Bitmap) : PixelExpr → Bool
  | .const b => b
  | .pixel y x => bitmapGet pb y x
  | .not e => !evalPixel pb e
  | .and e f => evalPixel pb e && evalPixel pb f
  | .or e f => evalPixel pb e || evalPixel pb f

/-- Row s and column c of a fold's table; a fold of the right type has an entry there (`foldLegal`). -/
def foldEntry (rows : List (List PixelExpr)) (s c : Nat) : PixelExpr := (rows.getD s []).getD c (.const false)

/-- FOLD(PB, s) (43_scan_engine.md R144): the pattern of L bits of scan row s. -/
def foldRow (cfg : Config) (pb : Bitmap) (s : Nat) : List Bool :=
  match cfg.fold with
  | .mod => foldMod cfg pb s
  | .other len rows => (List.range len).map fun c => evalPixel pb (foldEntry rows s c)

/-- order(P, BIT_ORDER) (43_scan_engine.md R145). -/
def orderBits (o : BitOrder) (p : List Bool) : List Bool :=
  match o with
  | .msbFirst => p
  | .reversed => p.reverse

/-- The bits scan row s shifts, the first shifted first. -/
def shiftSeq (cfg : Config) (pb : Bitmap) (s : Nat) : List Bool := orderBits cfg.bitOrder (foldRow cfg pb s)

/-- The three events of one shifted bit (43_scan_engine.md R146). -/
def bitEvents (b : Bool) : List PinEvent := [.data b, .clk true, .clk false]

/-- The pin events of one scan step of row s (30_encoding.md R83, 43_scan_engine.md R146): blank, address, shift,
strobe, enable. -/
def scanEvents (s : Nat) (seq : List Bool) : List PinEvent :=
  [.oe false, .addr s] ++ seq.flatMap bitEvents ++ [.lat true, .lat false, .oe true]

/-- In a model that measures time, the scan step lasts 1 / F_SCAN or longer (70_reset_and_hazards.md R189); in an
untimed model never (log 12). -/
def scanOverruns (cfg : Config) : Bool :=
  match cfg.scanStepNs with
  | none => false
  | some d => decide (1000000000 ≤ d * cfg.fScan)

/-- The scan step's effect but for the overrun (43_scan_engine.md R141, R146). -/
def scanRow (s : State) : State :=
  { emitAll s (scanEvents s.srow (shiftSeq s.cfg s.pb s.srow)) with srow := (s.srow + 1) % s.cfg.scanRows }

/-- An overrun sets FAULT, and is the step's outcome (70_reset_and_hazards.md R189); its other effects happen
(log 13). -/
def noteOverrun (s : State) : State :=
  if scanOverruns s.cfg then { s with fault := some .scanOverrun }.done (.fault .scanOverrun)
  else s.done (.ok .unit)

/-- SCAN_STEP (43_scan_engine.md R146). -/
def execScanStep (s : State) : Host.Outcome State Fault Refusal := .next (noteOverrun (scanRow s))

end Sys2Proof.Machine
end

