-- ==== Sys2Proof/Machine/Supervisor.lean ====
section
/-! DEFINITION. The supervisor, the watchdog and the clock (60_exceptions.md R165 to R170). -/

namespace Sys2Proof.Machine

/-- KICK (60_exceptions.md R165). -/
def execKick (slot : Slot) (s : State) : Host.Outcome State Fault Refusal :=
  .next ((kickSlot slot s).done (.ok .unit))

/-- The supervisor's iteration with no other agent between its reads: its own slot, then the watchdog if every slot is
healthy (60_exceptions.md R166). -/
def superviseOnce (s : State) : State :=
  if healthy (kickSlot .supervisor s) then reloadWatchdog (kickSlot .supervisor s) else kickSlot .supervisor s

/-- SUPERVISOR_CYCLE (60_exceptions.md R166). -/
def execSupervisorCycle (s : State) : Host.Outcome State Fault Refusal :=
  .next ((superviseOnce s).done (.ok .unit))

/-- The supervisor reads the slot `next` and judges its age at that instant. The last read ends the iteration: the
watchdog is reloaded if every slot read was healthy. Until then the reads still to come stay in the state
(20_memory.md R61, 60_exceptions.md R166; log 14). -/
def readSlot (c : SupervisorCycle) (s : State) : State :=
  match c.more with
  | [] =>
    { (if c.healthy && slotHealthy s c.next then reloadWatchdog s else s) with sup := none }.done (.ok .unit)
  | slot :: more => { s with sup := some ⟨slot, more, c.healthy && slotHealthy s c.next⟩ }.begin

/-- One read of the supervisor: the first of an iteration, after the kick of its own slot, or the next of the iteration
under way (20_memory.md R61, 60_exceptions.md R166). The slots are read in the order of 10_state.md R36 (log 14). Any turn may stand between two reads,
the clock's too, so that an iteration may end later than it judged a slot: DESIGN CHOICE, R61 names only kicks there, and
60_exceptions.md R171 gives an iteration one time (log 26; safe). -/
def superviseRead (s : State) : State :=
  match s.sup with
  | none => readSlot ⟨.proto, [.logger, .display, .supervisor], true⟩ (kickSlot .supervisor s)
  | some c => readSlot c s

/-- Start the countdown, once (60_exceptions.md R167). -/
def startWatchdog (t : Nat) (s : State) : State :=
  if s.wdtRun then s else { s with wdtRun := true, wdtCnt := t }

/-- WATCHDOG_INIT (60_exceptions.md R167). -/
def execWatchdogInit (t : Nat) (s : State) : Host.Outcome State Fault Refusal :=
  .next ((startWatchdog t s).done (.ok .unit))

/-- WATCHDOG_KICK (60_exceptions.md R168). -/
def execWatchdogKick (s : State) : Host.Outcome State Fault Refusal :=
  .next ((reloadWatchdog s).done (.ok .unit))

/-- The clock's step: `now` moves; a running countdown that d uses up forces the block reset, else it goes down by d
(60_exceptions.md R169, R170). -/
def advanceTime (d : Nat) (s : State) : State :=
  if s.wdtRun then
    if s.wdtCnt ≤ d then blockReset { s with now := s.now + d }
    else { s with now := s.now + d, wdtCnt := s.wdtCnt - d }
  else { s with now := s.now + d }

/-- TIME_ADVANCE (60_exceptions.md R169). -/
def execTimeAdvance (d : Nat) (s : State) : Host.Outcome State Fault Refusal :=
  .next ((advanceTime d s).done (.ok .unit))

end Sys2Proof.Machine
end

