-- ==== Sys2Proof/Machine/Dispatch.lean ====
section
/-! DEFINITION. The meaning of every operation: one arm per constructor of Instr. -/

namespace Sys2Proof.Machine

def exec (i : Instr) (s : State) : Host.Outcome State Fault Refusal :=
  match i with
  | .readRegisters h req => Sys2Proof.Machine.execReadRegisters h req s
  | .writeSingle h req => Sys2Proof.Machine.execWriteSingle h req s
  | .writeMultiple h req => Sys2Proof.Machine.execWriteMultiple h req s
  | .unsupported h fc => Sys2Proof.Machine.execUnsupported h fc s
  | .read a => Sys2Proof.Machine.execRead a s
  | .readBlock a q => Sys2Proof.Machine.execReadBlock a q s
  | .write a v => Sys2Proof.Machine.execWrite a v s
  | .writeBlock a vs => Sys2Proof.Machine.execWriteBlock a vs s
  | .consumeChangedTime => Sys2Proof.Machine.execConsumeChangedTime s
  | .getTime => Sys2Proof.Machine.execGetTime s
  | .getDate => Sys2Proof.Machine.execGetDate s
  | .getLogEnable => Sys2Proof.Machine.execGetLogEnable s
  | .render m sec => Sys2Proof.Machine.execRender m sec s
  | .publish => Sys2Proof.Machine.execPublish s
  | .displayStep => Sys2Proof.Machine.execDisplayStep s
  | .scanStep => Sys2Proof.Machine.execScanStep s
  | .receiveChunk chunk => Sys2Proof.Machine.execReceiveChunk chunk s
  | .connect => Sys2Proof.Machine.execConnect s
  | .disconnect => Sys2Proof.Machine.execDisconnect s
  | .protoIdle => Sys2Proof.Machine.execProtoIdle s
  | .kick slot => Sys2Proof.Machine.execKick slot s
  | .supervisorCycle => Sys2Proof.Machine.execSupervisorCycle s
  | .watchdogInit t => Sys2Proof.Machine.execWatchdogInit t s
  | .watchdogKick => Sys2Proof.Machine.execWatchdogKick s
  | .timeAdvance d => Sys2Proof.Machine.execTimeAdvance d s

end Sys2Proof.Machine
end

