-- ==== Sys2Proof/Machine/Step.lean ====
section
/-! DEFINITION. One step of the machine: the next agent's turn in the environment's schedule (log 1). The block has no
program counter and fetches nothing (00_scope.md R2); which agent moves next is open (60_exceptions.md R159), so it is
data of the state. -/

namespace Sys2Proof.Machine

/-- The refusal of a request that is no operation. -/
def refusalOf : DecodeError → Refusal
  | .unknownOpsel sel => .unknownOpsel sel
  | .badOperand _ => .malformedRequest
  | .badFrame => .malformedRequest
  | .empty => .malformedRequest

/-- An agent's turn: a whole operation is decoded and executed; a read of the supervisor is made (20_memory.md R61). -/
def takeTurn (u : Turn) (s : State) : Host.Outcome State Fault Refusal :=
  match u with
  | .operation r =>
    match decodeRequest r with
    | .ok i => exec i s
    | .error e => .refused (refusalOf e)
  | .superviseRead => .next (superviseRead s)

/-- A faulted state takes no further step (93_implementation_defined.md I15); an illegal configuration is refused
(60_exceptions.md R160); otherwise the first scheduled turn is taken. With nothing scheduled no agent moves and nothing
changes (log 16). -/
def step (s : State) : Host.Outcome State Fault Refusal :=
  match s.fault with
  | some f => .fault f
  | none =>
    if configLegal s.cfg = false then .refused .badConfig
    else match s.pending with
      | [] => .next s
      | u :: more => takeTurn u { s with pending := more }

/-- `s` with the operation of a word of spec/opcode_table.json scheduled as its next agent step (log 1). -/
def State.withFetchWord (s : State) (nbits w : Nat) : State :=
  { s with pending := Turn.operation (tableRequest nbits w) :: s.pending }

end Sys2Proof.Machine
end

