-- ==== Sys2Proof/Safety.lean ====
section
/-! DEFINITION. The terms claims are stated in: which agent takes which step, what the block's own agents do, the
invariant of every state the block is in between steps, and runs of several operations. -/

namespace Sys2Proof.Machine

/-- The agents that take steps (00_scope.md R6). The WATCHDOG acts inside the CLOCK's step (60_exceptions.md R170). -/
inductive Agent where
  | host
  | proto
  | display
  | scan
  | logger
  | supervisor
  | clock
  deriving DecidableEq, Repr

/-- The agents that may call the reading operations of the register file: any but DISPLAY, which makes no
register-file call (40_register_file.md R89, 90_conflicts.md C6), and SCAN, which never calls one (20_memory.md R59). -/
def registerReaders : List Agent := [.host, .proto, .logger, .supervisor, .clock]

/-- The agent column of 30_encoding.md R84, its `any` as 40_register_file.md R89 reads it; the host commands are PROTO's
(00_scope.md R6). No step checks it (60_exceptions.md R163; log 24). -/
def agentsOf : Instr → List Agent
  | .readRegisters _ _ => [.proto]
  | .writeSingle _ _ => [.proto]
  | .writeMultiple _ _ => [.proto]
  | .unsupported _ _ => [.proto]
  | .read _ => registerReaders
  | .readBlock _ _ => registerReaders
  | .write _ _ => [.proto]
  | .writeBlock _ _ => [.proto]
  | .consumeChangedTime => [.proto]
  | .getTime => registerReaders
  | .getDate => registerReaders
  | .getLogEnable => registerReaders
  | .render _ _ => [.display]
  | .publish => [.display]
  | .displayStep => [.display]
  | .scanStep => [.scan]
  | .receiveChunk _ => [.host, .proto]
  | .connect => [.host]
  | .disconnect => [.host]
  | .protoIdle => [.proto]
  | .kick .proto => [.proto]
  | .kick .logger => [.logger]
  | .kick .display => [.display]
  | .kick .supervisor => [.supervisor]
  | .supervisorCycle => [.supervisor]
  | .watchdogInit _ => [.supervisor]
  | .watchdogKick => [.supervisor]
  | .timeAdvance _ => [.clock]

/-- The operations that are steps of their own, in state `s`, of the block's agents and its environment. A host command
runs inside RECEIVE_CHUNK (41_host_commands.md R106, R110), and registers are written and the latch consumed only
inside one (40_register_file.md R89, 70_reset_and_hazards.md R190). RENDER and PUBLISH run inside DISPLAY_STEP
(42_display_render.md R136, R137). The supervisor's first step after a reset is WATCHDOG_INIT with WDT_TIMEOUT, its later
ones are cycles, one at a time, and it kicks its own slot and the watchdog inside them (70_reset_and_hazards.md R182,
60_exceptions.md R166); WDT_RUN tells whether the first step was taken. CONNECT, DISCONNECT and RECEIVE_CHUNK are taken
where they are enabled (41_host_commands.md R126). -/
def blockTakes (s : State) : Instr → Bool
  | .readRegisters _ _ => false
  | .writeSingle _ _ => false
  | .writeMultiple _ _ => false
  | .unsupported _ _ => false
  | .read _ => true
  | .readBlock _ q => decide (1 ≤ q)
  | .write _ _ => false
  | .writeBlock _ _ => false
  | .consumeChangedTime => false
  | .getTime => true
  | .getDate => true
  | .getLogEnable => true
  | .render _ _ => false
  | .publish => false
  | .displayStep => true
  | .scanStep => true
  | .receiveChunk chunk => decide (s.conn = .opened) && decide (chunk ≠ [])
  | .connect => decide (s.conn = .closed)
  | .disconnect => decide (s.conn = .opened)
  | .protoIdle => true
  | .kick .proto => true
  | .kick .logger => true
  | .kick .display => true
  | .kick .supervisor => false
  | .supervisorCycle => s.wdtRun && s.sup.isNone
  | .watchdogInit t => !s.wdtRun && decide (t = s.cfg.wdtTimeout)
  | .watchdogKick => false
  | .timeAdvance d => decide (1 ≤ d)

/-- The turn is one the block's agents or its environment take in state `s`; the supervisor reads slots only in its
cycles, which come after its first step (70_reset_and_hazards.md R182). -/
def turnTaken (s : State) : Turn → Bool
  | .operation r =>
    match decodeRequest r with
    | .ok i => blockTakes s i
    | .error _ => false
  | .superviseRead => s.wdtRun

/-- Every turn of a schedule, taken from `s`, is one the block's agents or its environment take in the state they find:
the callers of 40_register_file.md R89, the publications of 42_display_render.md R137 and the boot order of
70_reset_and_hazards.md R182 (log 17, 24). -/
def Disciplined : List Turn → State → Prop
  | [], _ => True
  | u :: more, s =>
    turnTaken s u = true ∧ ∀ t, takeTurn u { s with pending := more } = .next t → Disciplined more t

/-- The scheduled turns are the block's own (70_reset_and_hazards.md R182). -/
abbrev BlockSchedule (s : State) : Prop := Disciplined s.pending s

/-- A running countdown is neither used up nor above WDT_TIMEOUT (60_exceptions.md R167, R168, R169). -/
def CountdownInRange (s : State) : Prop := s.wdtRun = true → 0 < s.wdtCnt ∧ s.wdtCnt ≤ s.cfg.wdtTimeout

/-- The operations in which a register can be written (40_register_file.md R97, R98; 41_host_commands.md R106, R112,
R113). -/
def mayWriteRegisters : Instr → Bool
  | .readRegisters _ _ => false
  | .writeSingle _ _ => true
  | .writeMultiple _ _ => true
  | .unsupported _ _ => false
  | .read _ => false
  | .readBlock _ _ => false
  | .write _ _ => true
  | .writeBlock _ _ => true
  | .consumeChangedTime => false
  | .getTime => false
  | .getDate => false
  | .getLogEnable => false
  | .render _ _ => false
  | .publish => false
  | .displayStep => false
  | .scanStep => false
  | .receiveChunk _ => true
  | .connect => false
  | .disconnect => false
  | .protoIdle => false
  | .kick _ => false
  | .supervisorCycle => false
  | .watchdogInit _ => false
  | .watchdogKick => false
  | .timeAdvance _ => false

/-- The step records `now` in the slot (60_exceptions.md R165, R166; 41_host_commands.md R125; 42_display_render.md
R139). -/
def kicks (slot : Slot) : Instr → Bool
  | .readRegisters _ _ => false
  | .writeSingle _ _ => false
  | .writeMultiple _ _ => false
  | .unsupported _ _ => false
  | .read _ => false
  | .readBlock _ _ => false
  | .write _ _ => false
  | .writeBlock _ _ => false
  | .consumeChangedTime => false
  | .getTime => false
  | .getDate => false
  | .getLogEnable => false
  | .render _ _ => false
  | .publish => false
  | .displayStep => decide (slot = .display)
  | .scanStep => false
  | .receiveChunk _ => decide (slot = .proto)
  | .connect => false
  | .disconnect => false
  | .protoIdle => decide (slot = .proto)
  | .kick k => decide (k = slot)
  | .supervisorCycle => decide (slot = .supervisor)
  | .watchdogInit _ => false
  | .watchdogKick => false
  | .timeAdvance _ => false

/-- The watchdog's countdown runs and an advance of `d` uses it up (60_exceptions.md R169). -/
abbrev Expires (d : Nat) (s : State) : Prop := s.wdtRun = true ∧ s.wdtCnt ≤ d

/-- How many RESET markers the reply trace holds: the watchdog resets since power-on (70_reset_and_hazards.md
R177). -/
def resetCount (s : State) : Nat :=
  s.rt.countP fun e => match e with
    | .item _ => false
    | .reset => true

/-- Operations one after another, up to the first that stops. -/
def execAll : List Instr → State → Host.Outcome State Fault Refusal
  | [], s => .next s
  | i :: is, s =>
    match exec i s with
    | .next t => execAll is t
    | .fault f => .fault f
    | .refused r => .refused r

/-- Every one of the 16 rows has `w` bits (10_state.md R24). -/
def Shaped (w : Nat) (b : Bitmap) : Prop := ∀ row ∈ b.rows.toList, row.length = w

/-- What a successful host write leaves, written from 41_host_commands.md R112, R113, R116, R117, R118 and
40_register_file.md R99: `r` is the table after the write, which began at register `a`; `reply` is the reply frame.
The latch is evaluated when the range meets {0, 1}, consumed, and what it yields goes to NQ, if there is room, and to
LN. -/
def hostWriteResult (s : State) (r : Vector U16 32) (a : Nat) (reply : List Byte) : State :=
  let tl : TimeLatch :=
    if a ≤ 1 ∧ (r[0], r[1]) ≠ (s.tl.lastMin, s.tl.lastSec) then ⟨true, r[0], r[1]⟩ else s.tl
  { s with
    reg := r
    tl := ⟨false, tl.lastMin, tl.lastSec⟩
    nq := if tl.dirty = true ∧ s.nq.length < s.cfg.nqDepth then s.nq ++ [(tl.lastMin, tl.lastSec)] else s.nq
    ln := if tl.dirty = true then s.ln ++ [.item (tl.lastMin, tl.lastSec)] else s.ln
    rt := s.rt ++ [.item reply]
    outs := [.ok .unit] }

/-- The pixel (y, x) is a lit pixel of the glyph of digit `d` drawn with its left column at `x0` and its top row at
Y_OFF (42_display_render.md R130, R131, R132). -/
def GlyphCovers (cfg : Config) (d : Nat) (x0 : Int) (y x : Nat) : Prop :=
  ∃ r c : Nat, r < 7 ∧ c < 5 ∧ (y : Int) = cfg.yOff + r ∧ (x : Int) = x0 + c ∧
    ∃ (glyph : Vector (BitVec 5) 7) (row : BitVec 5),
      cfg.glyph[d]? = some glyph ∧ glyph[r]? = some row ∧ row.getLsbD (4 - c) = true

/-- A PDU with a function code and at least the fixed fields of its command (30_encoding.md R70 to R73), no longer
than the longest legal one (R67). -/
abbrev PduParses (pdu : List Byte) : Prop :=
  1 ≤ pdu.length ∧ pdu.length ≤ 252 ∧
    (pdu.head? = some 0x03 ∨ pdu.head? = some 0x06 → 5 ≤ pdu.length) ∧ (pdu.head? = some 0x10 → 6 ≤ pdu.length)

/-- What holds of the block between steps. -/
structure Inv (s : State) : Prop where
  /-- 10_state.md R22 -/
  latch : s.tl.lastMin = s.regAt 0 ∧ s.tl.lastSec = s.regAt 1
  /-- 10_state.md R24 -/
  published : Shaped s.cfg.width s.pb
  /-- 10_state.md R26 -/
  buffer : Shaped s.cfg.width s.rb
  /-- 10_state.md R27 -/
  row : s.srow < s.cfg.scanRows
  /-- 10_state.md R28 -/
  address : s.pins.addr < s.cfg.scanRows
  /-- A scan step leaves CLK and LAT low (30_encoding.md R83). -/
  clockLow : s.pins.clk = false
  latchLow : s.pins.lat = false
  /-- 10_state.md R30 -/
  shifted : s.panel.sr.length = s.cfg.shiftLen
  latched : s.panel.lr.length = s.cfg.shiftLen
  /-- 10_state.md R31 -/
  bufferBound : s.buf.length ≤ s.cfg.bufCap
  /-- Every complete frame was taken, and a bad header was resynced (41_host_commands.md R108). -/
  waiting : detectFrame s.buf = .wait
  /-- 41_host_commands.md R123 -/
  closedEmpty : s.conn = .closed → s.buf = []
  /-- 10_state.md R34 -/
  queueBound : s.nq.length ≤ s.cfg.nqDepth
  /-- An interrupted cycle still has the last one, two or three slots to read (20_memory.md R61; log 14). -/
  cycleOrder : ∀ c, s.sup = some c →
    c.next :: c.more ∈ [[.logger, .display, .supervisor], [.display, .supervisor], [Slot.supervisor]]
  /-- A slot holds a past value of `now`, which never decreases (10_state.md R36, R37). -/
  slotsPast : ∀ slot, s.lt.get slot ≤ s.now

end Sys2Proof.Machine
end

