-- ==== Sys2Proof/Certificates/Slice0/Obligations.lean ====
section
/-! DEFINITION. The statements for the provers, each from the numbered rules of spec/ its docstring names. `outs` is
where the model keeps what an operation returns (log 6); the values themselves are the rules'. -/

open Sys2Proof Sys2Proof.Machine

/-! ## Encoding -/

/-- Every well-formed operation is read back from its encoding, with every operand at every value (30_encoding.md R66
to R73 for the host commands; the operand layout of the port operations is the model's, log 3). -/
def Obligations.DecodeInvertsEncode : Prop :=
  ∀ i : Instr, i.wellFormed = true → decodeRequest (encode i) = .ok i

/-- The frames of 30_encoding.md R86, byte by byte, decode to their commands. -/
def Obligations.CommandFramesDecode : Prop :=
  ∀ (t : U16) (u : Byte),
    (∀ a q : U16, decodeRequest (.frame (bytes16 t ++ [0, 0, 0, 6, u, 0x03] ++ bytes16 a ++ bytes16 q))
      = .ok (.readRegisters ⟨t, u⟩ (some ⟨a, q⟩))) ∧
    (∀ a v : U16, decodeRequest (.frame (bytes16 t ++ [0, 0, 0, 6, u, 0x06] ++ bytes16 a ++ bytes16 v))
      = .ok (.writeSingle ⟨t, u⟩ (some ⟨a, v⟩))) ∧
    (∀ (a : U16) (vs : List U16), vs.length ≤ 123 →
      decodeRequest (.frame (bytes16 t ++ [0, 0] ++ bytes16 (BitVec.ofNat 16 (7 + 2 * vs.length)) ++ [u, 0x10]
          ++ bytes16 a ++ bytes16 (BitVec.ofNat 16 vs.length) ++ [BitVec.ofNat 8 (2 * vs.length)]
          ++ vs.flatMap bytes16))
        = .ok (.writeMultiple ⟨t, u⟩
            (some ⟨a, BitVec.ofNat 16 vs.length, BitVec.ofNat 8 (2 * vs.length), vs.flatMap bytes16⟩))) ∧
    (∀ (f : Byte) (ds : List Byte), f ≠ 0x03 → f ≠ 0x06 → f ≠ 0x10 → ds.length ≤ 251 →
      decodeRequest (.frame (bytes16 t ++ [0, 0] ++ bytes16 (BitVec.ofNat 16 (2 + ds.length)) ++ [u, f] ++ ds))
        = .ok (.unsupported ⟨t, u⟩ f))

/-- The pseudo-instructions of 30_encoding.md R86 are the SEND of the frames it writes out. -/
def Obligations.PseudoInstructionsExpand : Prop :=
  ∀ (w : Nat) (t : U16) (u : Byte),
    (∀ a q : U16, (ProgramLine.rd03 t u a q).expand w
      = [.receiveChunk (bytes16 t ++ [0, 0, 0, 6, u, 0x03] ++ bytes16 a ++ bytes16 q)]) ∧
    (∀ a v : U16, (ProgramLine.wr06 t u a v).expand w
      = [.receiveChunk (bytes16 t ++ [0, 0, 0, 6, u, 0x06] ++ bytes16 a ++ bytes16 v)]) ∧
    (∀ (a : U16) (vs : List U16), (ProgramLine.wr10 t u a vs).expand w
      = [.receiveChunk (bytes16 t ++ [0, 0] ++ bytes16 (BitVec.ofNat 16 (7 + 2 * vs.length)) ++ [u, 0x10] ++ bytes16 a
          ++ bytes16 (BitVec.ofNat 16 vs.length) ++ [BitVec.ofNat 8 (2 * vs.length)] ++ vs.flatMap bytes16)]) ∧
    (∀ (f : Byte) (ds : List Byte), (ProgramLine.fc t u f ds).expand w
      = [.receiveChunk (bytes16 t ++ [0, 0] ++ bytes16 (BitVec.ofNat 16 (2 + ds.length)) ++ [u, f] ++ ds)])

/-- A few words written out from 30_encoding.md R70 to R73 and R84 decode to the operations they stand for. -/
def Obligations.TableWordsDecode : Prop :=
  decodeRequest (.frame [0x00, 0x01, 0x00, 0x00, 0x00, 0x06, 0x01, 0x03, 0x00, 0x00, 0x00, 0x02])
    = .ok (.readRegisters ⟨1, 1⟩ (some ⟨0, 2⟩)) ∧
  decodeRequest (.frame [0x00, 0x03, 0x00, 0x00, 0x00, 0x0B, 0x01, 0x10, 0x00, 0x00, 0x00, 0x02, 0x04, 0x00, 0x05,
    0x00, 0x1E]) = .ok (.writeMultiple ⟨3, 1⟩ (some ⟨0, 2, 4, [0x00, 0x05, 0x00, 0x1E]⟩)) ∧
  decodeTableWord 8 0xA4 = some .consumeChangedTime ∧
  decodeTableWord 8 0xB2 = some .displayStep ∧
  decodeTableWord 8 0xC0 = some .scanStep ∧
  decodeTableWord 8 0xD1 = some .connect ∧
  decodeTableWord 8 0xE1 = some .supervisorCycle

/-- `be16` and `bytes16` are the big-endian pair of 20_memory.md R47 and 00_scope.md R12. -/
def Obligations.FieldsAreBigEndian : Prop :=
  (∀ b0 b1 : Byte, (be16 b0 b1).toNat = b0.toNat * 256 + b1.toNat) ∧
  (∀ v : U16, ∃ b0 b1 : Byte, bytes16 v = [b0, b1] ∧ b0.toNat = v.toNat / 256 ∧ b1.toNat = v.toNat % 256) ∧
  (∀ v : U16, wordsOf (bytes16 v) = [v])

/-! ## The step -/

/-- A step takes the next request off the schedule and executes the operation it decodes to (log 1); a turn that is one
read of the supervisor is in `SupervisorKicksWhenHealthy`. -/
def Obligations.StepRunsDecodedRequest : Prop :=
  ∀ (s : State) (r : Request) (more : List Turn) (i : Instr), s.fault = none → configLegal s.cfg = true →
    s.pending = .operation r :: more → decodeRequest r = .ok i → step s = exec i { s with pending := more }

/-- A word of the opcode table that was put in the schedule is the next operation executed (log 1). -/
def Obligations.FetchedWordRunsNext : Prop :=
  ∀ (s : State) (nbits w : Nat) (i : Instr), s.fault = none → configLegal s.cfg = true →
    decodeTableWord nbits w = some i → step (s.withFetchWord nbits w) = exec i s

/-- With nothing scheduled no agent moves (the model's choice, log 16). -/
def Obligations.IdleStepChangesNothing : Prop :=
  ∀ s : State, s.fault = none → configLegal s.cfg = true → s.pending = [] → step s = .next s

/-- A selector outside the table of 30_encoding.md R84 is refused, whatever follows it. -/
def Obligations.UnknownSelectorsAreRefused : Prop :=
  ∀ (s : State) (sel : Byte) (ops : List Byte) (more : List Turn), s.fault = none → configLegal s.cfg = true →
    s.pending = .operation (.port (sel :: ops)) :: more →
    sel.toNat ∉ [0xA0, 0xA1, 0xA2, 0xA3, 0xA4, 0xA5, 0xA6, 0xA7, 0xB0, 0xB1, 0xB2, 0xC0, 0xD0, 0xD1, 0xD2, 0xD3, 0xE0,
      0xE1, 0xE2, 0xE3, 0xF0] →
    step s = .refused (.unknownOpsel sel)

/-- A configuration that breaks a requirement of 70_reset_and_hazards.md R183 or 00_scope.md R10 is refused; a table
that does not give each scan row L bits is no FOLD of the type of 43_scan_engine.md R144 (log 11, 15). -/
def Obligations.IllegalConfigurationIsRefused : Prop :=
  ∀ s : State, s.fault = none →
    (s.cfg.mirror = true ∨ s.cfg.swap = true ∨ (s.cfg.addrLines ≠ 2 ∧ s.cfg.addrLines ≠ 3) ∨ s.cfg.width = 0 ∨
      s.cfg.bufCap < 259 ∨ s.cfg.nqDepth = 0 ∨ s.cfg.wdtTimeout ≤ s.cfg.wdtMargin ∨
      ∃ len rows, s.cfg.fold = .other len rows ∧
        (rows.length ≠ s.cfg.scanRows ∨ ∃ row ∈ rows, row.length ≠ len)) →
    step s = .refused .badConfig

/-! ## Reset -/

/-- The register table after every reset (10_state.md R16): at power-on in any configuration, and at a
watchdog reset. -/
def Obligations.ResetGivesTheTable : Prop :=
  ∀ s : State, (s = State.reset ∨ (∃ cfg now rb wdtCnt, s = State.boot cfg now rb wdtCnt) ∨
      ∃ (d : Nat) (s₀ : State), Expires d s₀ ∧ exec (.timeAdvance d) s₀ = .next s) →
    s.reg[0] = 0 ∧ s.reg[1] = 0 ∧ s.reg[2] = 1970 ∧ s.reg[3] = 1 ∧ s.reg[4] = 1 ∧ s.reg[5] = 1 ∧
    ∀ (i : Nat) (_ : 6 ≤ i) (hi : i < 32), s.reg[i] = s.cfg.resetFill

/-- The state right after power-on (70_reset_and_hazards.md R179), for every configuration and every value of what the
spec leaves unspecified (RB, `now`, WDT_CNT); `State.reset` is it in the default configuration of 00_scope.md R8, with
the model's choice of those values (log 2, 7, 9, 10, 25). No cycle of the supervisor is under way (log 14). -/
def Obligations.PowerOnState : Prop :=
  (∃ rb wdtCnt now, State.reset = State.boot Config.default now rb wdtCnt) ∧
  ∀ (cfg : Config) (now : Nat) (rb : Bitmap) (wdtCnt : Nat) (s : State), s = State.boot cfg now rb wdtCnt →
    s.cfg = cfg ∧ s.tl = ⟨false, 0, 0⟩ ∧ (∀ y x : Nat, bitmapGet s.pb y x = false) ∧ s.srow = 0 ∧
    s.pins = ⟨false, 0, false, false, false⟩ ∧ s.panel.sr = List.replicate cfg.shiftLen false ∧
    s.panel.lr = List.replicate cfg.shiftLen false ∧ s.shown = none ∧ s.buf = [] ∧ s.conn = .closed ∧ s.nq = [] ∧
    (∀ slot, s.lt.get slot = now) ∧ s.now = now ∧ s.wdtRun = false ∧ s.sup = none ∧ s.fault = none ∧ s.pt = [] ∧ s.rt = [] ∧
    s.ln = []

/-! ## The register file (40_register_file.md) -/

/-- READ (R95): the register, or NotFound from address 32 on; nothing is written. -/
def Obligations.ReadReturnsTheRegister : Prop :=
  ∀ (s : State) (a : Nat),
    (∀ h : a < 32, exec (.read a) s = .next { s with outs := [.ok (.word s.reg[a])] }) ∧
    (32 ≤ a → exec (.read a) s = .next { s with outs := [.notFound] })

/-- READ_BLOCK (R96, R92): the snapshot of a range inside the table, NotFound for any other, a refusal for q = 0;
nothing is written. -/
def Obligations.ReadBlockReturnsTheRange : Prop :=
  ∀ (s : State) (a q : Nat),
    (1 ≤ q → a + q ≤ 32 → ∃ vs : List U16, vs.length = q ∧ (∀ i, i < q → vs[i]? = s.reg[a + i]?) ∧
      exec (.readBlock a q) s = .next { s with outs := [.ok (.words vs)] }) ∧
    (1 ≤ q → 32 < a + q → exec (.readBlock a q) s = .next { s with outs := [.notFound] }) ∧
    (q = 0 → exec (.readBlock a q) s = .refused .zeroQuantity)

/-- WRITE (R97, R99): the register, and the latch when the address is 0 or 1; NotFound and nothing written from
address 32 on. -/
def Obligations.WriteStoresAndEvaluates : Prop :=
  ∀ (s : State) (a : Nat) (v : U16),
    (∀ h : a < 32, exec (.write a v) s = .next { s with
      reg := s.reg.set a v
      tl := if a ≤ 1 ∧ ((s.reg.set a v)[0], (s.reg.set a v)[1]) ≠ (s.tl.lastMin, s.tl.lastSec) then
          ⟨true, (s.reg.set a v)[0], (s.reg.set a v)[1]⟩ else s.tl
      outs := [.ok .unit] }) ∧
    (32 ≤ a → exec (.write a v) s = .next { s with outs := [.notFound] })

/-- WRITE_BLOCK (R98, R99, R92, R104): every register of the range and no other, and the latch when the range meets
{0, 1}; NotFound and nothing written when the range leaves the table; a refusal without values. -/
def Obligations.WriteBlockStoresTheRange : Prop :=
  ∀ (s : State) (a : Nat) (vs : List U16),
    (vs ≠ [] → a + vs.length ≤ 32 → ∃ r : Vector U16 32,
      (∀ i, i < 32 → r[i]? = if a ≤ i ∧ i < a + vs.length then vs[i - a]? else s.reg[i]?) ∧
      exec (.writeBlock a vs) s = .next { s with
        reg := r
        tl := if a ≤ 1 ∧ (r[0], r[1]) ≠ (s.tl.lastMin, s.tl.lastSec) then ⟨true, r[0], r[1]⟩ else s.tl
        outs := [.ok .unit] }) ∧
    (vs ≠ [] → 32 < a + vs.length → exec (.writeBlock a vs) s = .next { s with outs := [.notFound] }) ∧
    (vs = [] → exec (.writeBlock a vs) s = .refused .zeroQuantity)

/-- Round trip (R105): a block written inside the table is read back as long as no operation that can write
registers and no watchdog reset comes between; the second of two consumes with no such operation between returns
nothing. -/
def Obligations.BlockWriteReadsBack : Prop :=
  (∀ (s : State) (a : Nat) (vs : List U16), vs ≠ [] → a + vs.length ≤ 32 →
    ∃ t : State, exec (.writeBlock a vs) s = .next t ∧
      ∀ (is : List Instr) (t' : State), (∀ i ∈ is, mayWriteRegisters i = false) → execAll is t = .next t' →
        resetCount t' = resetCount t →
        ∃ u : State, exec (.readBlock a vs.length) t' = .next u ∧ u.outs = [.ok (.words vs)]) ∧
  (∀ s : State, ∃ t : State, exec .consumeChangedTime s = .next t ∧
    ∀ (is : List Instr) (t' : State), (∀ i ∈ is, mayWriteRegisters i = false) → execAll is t = .next t' →
      ∃ u : State, exec .consumeChangedTime t' = .next u ∧ u.outs = [.ok (.change none)])

/-- Idempotency (20_memory.md R53): repeating a write with the same values leaves the registers and the latch as the
first left them, inside the table or not. -/
def Obligations.WritesAreIdempotent : Prop :=
  ∀ (s : State) (a : Nat),
    (∀ v : U16, ∃ t u : State, exec (.write a v) s = .next t ∧ exec (.write a v) t = .next u ∧
      u.reg = t.reg ∧ u.tl = t.tl) ∧
    (∀ vs : List U16, vs ≠ [] → ∃ t u : State, exec (.writeBlock a vs) s = .next t ∧
      exec (.writeBlock a vs) t = .next u ∧ u.reg = t.reg ∧ u.tl = t.tl)

/-- CONSUME_CHANGED_TIME (R100): the pair of a dirty latch, nothing of a clean one; the latch is clean after it. -/
def Obligations.ConsumeReturnsAndClears : Prop :=
  ∀ s : State,
    (s.tl.dirty = true → exec .consumeChangedTime s = .next { s with
      tl := ⟨false, s.tl.lastMin, s.tl.lastSec⟩, outs := [.ok (.change (some (s.tl.lastMin, s.tl.lastSec)))] }) ∧
    (s.tl.dirty = false → exec .consumeChangedTime s = .next { s with outs := [.ok (.change none)] })

/-- GET_TIME, GET_DATE, GET_LOG_ENABLE (R101, R102, R103): the raw registers, the latch untouched. -/
def Obligations.AccessorsReturnRawRegisters : Prop :=
  ∀ s : State,
    exec .getTime s = .next { s with outs := [.ok (.time s.reg[0] s.reg[1])] } ∧
    exec .getDate s = .next { s with outs := [.ok (.date s.reg[2] s.reg[3] s.reg[4])] } ∧
    exec .getLogEnable s = .next { s with outs := [.ok (.word s.reg[5])] }

/-! ## The host commands (41_host_commands.md) -/

/-- READ_REGISTERS (R111): exception 0x03 for a quantity outside 1..125, 0x02 for a legal quantity outside the table,
else the values; a PDU too short resyncs. -/
def Obligations.ReadRegistersReplies : Prop :=
  ∀ (s : State) (h : FrameHead),
    (∀ a q : U16,
      (q.toNat = 0 ∨ 126 ≤ q.toNat → exec (.readRegisters h (some ⟨a, q⟩)) s = .next { s with
        rt := s.rt ++ [.item (bytes16 h.tid ++ [0, 0, 0, 3, h.uid, 0x83, 0x03])], outs := [.exc 0x03] }) ∧
      (1 ≤ q.toNat → q.toNat ≤ 125 → 32 < a.toNat + q.toNat →
        exec (.readRegisters h (some ⟨a, q⟩)) s = .next { s with
          rt := s.rt ++ [.item (bytes16 h.tid ++ [0, 0, 0, 3, h.uid, 0x83, 0x02])], outs := [.exc 0x02] }) ∧
      (1 ≤ q.toNat → a.toNat + q.toNat ≤ 32 → ∃ vs : List U16, vs.length = q.toNat ∧
        (∀ i, i < q.toNat → vs[i]? = s.reg[a.toNat + i]?) ∧
        exec (.readRegisters h (some ⟨a, q⟩)) s = .next { s with
          rt := s.rt ++ [.item (bytes16 h.tid ++ [0, 0] ++ bytes16 (BitVec.ofNat 16 (3 + 2 * q.toNat))
            ++ [h.uid, 0x03, BitVec.ofNat 8 (2 * q.toNat)] ++ vs.flatMap bytes16)]
          outs := [.ok .unit] })) ∧
    exec (.readRegisters h none) s = .next { s with buf := [], outs := [.resync .malformed] }

/-- WRITE_SINGLE (R112, R116, R117, R118): exception 0x02 from address 32 on, else the register, the latch evaluated
and consumed, the notifications and the echo; a PDU too short resyncs. -/
def Obligations.WriteSingleEffect : Prop :=
  ∀ (s : State) (h : FrameHead),
    (∀ a v : U16,
      (32 ≤ a.toNat → exec (.writeSingle h (some ⟨a, v⟩)) s = .next { s with
        rt := s.rt ++ [.item (bytes16 h.tid ++ [0, 0, 0, 3, h.uid, 0x86, 0x02])], outs := [.exc 0x02] }) ∧
      (∀ ha : a.toNat < 32, exec (.writeSingle h (some ⟨a, v⟩)) s = .next (hostWriteResult s (s.reg.set a.toNat v)
        a.toNat (bytes16 h.tid ++ [0, 0, 0, 6, h.uid, 0x06] ++ bytes16 a ++ bytes16 v)))) ∧
    exec (.writeSingle h none) s = .next { s with buf := [], outs := [.resync .malformed] }

/-- WRITE_MULTIPLE (R113, R116, R117, R118): exception 0x03 for a quantity outside 1..123, a byte count that is not
twice it, or missing value bytes; 0x02 for a legal quantity outside the table; else the registers, the latch evaluated
and consumed, the notifications and the echo; a PDU too short resyncs. -/
def Obligations.WriteMultipleEffect : Prop :=
  ∀ (s : State) (h : FrameHead),
    (∀ (a q : U16) (bc : Byte) (data : List Byte),
      (q.toNat = 0 ∨ 124 ≤ q.toNat ∨ bc.toNat ≠ 2 * q.toNat ∨ data.length < bc.toNat →
        exec (.writeMultiple h (some ⟨a, q, bc, data⟩)) s = .next { s with
          rt := s.rt ++ [.item (bytes16 h.tid ++ [0, 0, 0, 3, h.uid, 0x90, 0x03])], outs := [.exc 0x03] }) ∧
      (1 ≤ q.toNat → q.toNat ≤ 123 → bc.toNat = 2 * q.toNat → bc.toNat ≤ data.length → 32 < a.toNat + q.toNat →
        exec (.writeMultiple h (some ⟨a, q, bc, data⟩)) s = .next { s with
          rt := s.rt ++ [.item (bytes16 h.tid ++ [0, 0, 0, 3, h.uid, 0x90, 0x02])], outs := [.exc 0x02] }) ∧
      (1 ≤ q.toNat → bc.toNat = 2 * q.toNat → bc.toNat ≤ data.length → a.toNat + q.toNat ≤ 32 →
        ∃ r : Vector U16 32,
          (∀ (i : Nat) (b0 b1 : Byte), i < q.toNat → data[2 * i]? = some b0 → data[2 * i + 1]? = some b1 →
            r[a.toNat + i]? = some (be16 b0 b1)) ∧
          (∀ i, i < 32 → (i < a.toNat ∨ a.toNat + q.toNat ≤ i) → r[i]? = s.reg[i]?) ∧
          exec (.writeMultiple h (some ⟨a, q, bc, data⟩)) s = .next (hostWriteResult s r a.toNat
            (bytes16 h.tid ++ [0, 0, 0, 6, h.uid, 0x10] ++ bytes16 a ++ bytes16 q)))) ∧
    exec (.writeMultiple h none) s = .next { s with buf := [], outs := [.resync .malformed] }

/-- UNSUPPORTED (R114): exception 0x01 with the function code's bit 7 set, and nothing else. -/
def Obligations.UnsupportedReplies : Prop :=
  ∀ (s : State) (h : FrameHead) (fc : Byte), exec (.unsupported h fc) s = .next { s with
    rt := s.rt ++ [.item (bytes16 h.tid ++ [0, 0, 0, 3, h.uid, fc ||| 0x80, 0x01])], outs := [.exc 0x01] }

/-- One reply for a command that can be parsed, with the request's transaction and unit ids and protocol id 0 and a
LEN of the reply's own size; none for one that cannot, which clears BUF (R119; 30_encoding.md R74). -/
def Obligations.OneReplyPerCommand : Prop :=
  ∀ (s : State) (h : FrameHead) (fc : Byte) (args : List Byte), (fc :: args).length ≤ 252 →
    (PduParses (fc :: args) → ∃ (t : State) (rpdu : List Byte),
      exec ((decodePdu fc args).instr h) s = .next t ∧ 1 ≤ rpdu.length ∧ rpdu.length ≤ 252 ∧ t.buf = s.buf ∧
      t.rt = s.rt ++ [.item (bytes16 h.tid ++ [0, 0] ++ bytes16 (BitVec.ofNat 16 (1 + rpdu.length)) ++ [h.uid]
        ++ rpdu)]) ∧
    (¬ PduParses (fc :: args) →
      exec ((decodePdu fc args).instr h) s = .next { s with buf := [], outs := [.resync .malformed] })

/-- RECEIVE_CHUNK when no frame is completed (R106, R107, R108, R109): an overflow or a bad header clears the buffer,
an incomplete frame waits in it; each ends with the liveness kick. -/
def Obligations.ReceiveChunkFraming : Prop :=
  ∀ (s : State) (c : List Byte), s.conn = .opened →
    (s.cfg.bufCap < s.buf.length + c.length → exec (.receiveChunk c) s = .next { s with
      buf := [], lt := { s.lt with proto := s.now }, outs := [.resync .overflow] }) ∧
    (s.buf.length + c.length ≤ s.cfg.bufCap →
      ((s.buf ++ c).length < 7 → exec (.receiveChunk c) s = .next { s with
        buf := s.buf ++ c, lt := { s.lt with proto := s.now }, outs := [.ok .unit] }) ∧
      (∀ (t0 t1 p0 p1 l0 l1 uid : Byte) (body : List Byte), s.buf ++ c = t0 :: t1 :: p0 :: p1 :: l0 :: l1 :: uid :: body →
        ((be16 p0 p1 ≠ 0 ∨ (be16 l0 l1).toNat < 2 ∨ 253 < (be16 l0 l1).toNat) →
          exec (.receiveChunk c) s = .next { s with
            buf := [], lt := { s.lt with proto := s.now }, outs := [.resync .badHeader] }) ∧
        (be16 p0 p1 = 0 → 2 ≤ (be16 l0 l1).toNat → (be16 l0 l1).toNat ≤ 253 →
          (s.buf ++ c).length < 6 + (be16 l0 l1).toNat →
          exec (.receiveChunk c) s = .next { s with
            buf := s.buf ++ c, lt := { s.lt with proto := s.now }, outs := [.ok .unit] })))

/-- RECEIVE_CHUNK when the buffer and the chunk hold whole commands and then `rest`: the commands are executed one
after another, as `execAll` does, and then `rest` waits for more bytes, or has a bad header, or begins with a frame
whose PDU cannot be parsed; the last two clear the buffer (R106, R108, R109, R110). -/
def Obligations.ChunkRunsItsCommandsInOrder : Prop :=
  ∀ (s : State) (c : List Byte) (fs : List (FrameHead × Byte × List Byte)) (rest : List Byte), s.conn = .opened →
    s.buf.length + c.length ≤ s.cfg.bufCap → (∀ f ∈ fs, PduParses (f.2.1 :: f.2.2)) →
    s.buf ++ c = fs.flatMap (fun f => bytes16 f.1.tid ++ [0, 0]
      ++ bytes16 (BitVec.ofNat 16 (2 + f.2.2.length)) ++ [f.1.uid, f.2.1] ++ f.2.2) ++ rest →
    ∃ t u : State, exec (.receiveChunk c) s = .next t ∧
      execAll (fs.map fun f => (decodePdu f.2.1 f.2.2).instr f.1) s = .next u ∧
      (detectFrame rest = .wait → t.outs.getLast? = some (.ok .unit) ∧
        t = { u with buf := rest, lt := { s.lt with proto := s.now }, outs := t.outs }) ∧
      (detectFrame rest = .bad → t.outs.getLast? = some (.resync .badHeader) ∧
        t = { u with buf := [], lt := { s.lt with proto := s.now }, outs := t.outs }) ∧
      (∀ h fc args more, detectFrame rest = .frame h fc args more → ¬ PduParses (fc :: args) →
        t.outs.getLast? = some (.resync .malformed) ∧
        t = { u with buf := [], lt := { s.lt with proto := s.now }, outs := t.outs })

/-- Fragmentation (R120): a legal frame delivered in two chunks leaves what it leaves delivered whole. -/
def Obligations.FragmentationDoesNotMatter : Prop :=
  ∀ (s : State) (t0 t1 l0 l1 uid : Byte) (body : List Byte) (k : Nat), s.conn = .opened → s.buf = [] →
    259 ≤ s.cfg.bufCap → 2 ≤ (be16 l0 l1).toNat → (be16 l0 l1).toNat ≤ 253 → body.length + 1 = (be16 l0 l1).toNat →
    0 < k → k < 7 + body.length →
    ∃ t u v : State,
      exec (.receiveChunk (t0 :: t1 :: 0 :: 0 :: l0 :: l1 :: uid :: body)) s = .next t ∧
      exec (.receiveChunk ((t0 :: t1 :: 0 :: 0 :: l0 :: l1 :: uid :: body).take k)) s = .next u ∧
      exec (.receiveChunk ((t0 :: t1 :: 0 :: 0 :: l0 :: l1 :: uid :: body).drop k)) u = .next v ∧
      v.reg = t.reg ∧ v.tl = t.tl ∧ v.nq = t.nq ∧ v.ln = t.ln ∧ v.rt = t.rt

/-- CONNECT, DISCONNECT, PROTO_IDLE where they are enabled (R122, R123, R124). -/
def Obligations.ConnectionSteps : Prop :=
  ∀ s : State,
    (s.conn = .closed → exec .connect s = .next { s with conn := .opened, buf := [], outs := [.ok .unit] }) ∧
    (s.conn = .opened → exec .disconnect s = .next { s with conn := .closed, buf := [], outs := [.ok .unit] }) ∧
    exec .protoIdle s = .next { s with lt := { s.lt with proto := s.now }, outs := [.ok .unit] }

/-- A step that is not enabled changes nothing of the block (the model's choice of how to say "no step", log 5). -/
def Obligations.StepsNotEnabledChangeNothing : Prop :=
  ∀ s : State,
    (s.conn = .opened → exec .connect s = .next { s with outs := [] }) ∧
    (s.conn = .closed → exec .disconnect s = .next { s with outs := [] }) ∧
    (s.conn = .closed → ∀ c, exec (.receiveChunk c) s = .next { s with outs := [] })

/-! ## The display (42_display_render.md) -/

/-- RENDER (R133): RB holds exactly the lit pixels of the five digits that fall inside the bitmap, and nothing else of
the state changes. -/
def Obligations.RenderDrawsTheDigits : Prop :=
  ∀ (s : State) (m sec : U16), ∃ b : Bitmap,
    exec (.render m sec) s = .next { s with rb := b, outs := [.ok .unit] } ∧ Shaped s.cfg.width b ∧
    ∀ y x : Nat, y < 16 → x < s.cfg.width →
      (bitmapGet b y x = true ↔
        GlyphCovers s.cfg (min m.toNat 999 / 100) s.cfg.xMin0 y x ∨
        GlyphCovers s.cfg (min m.toNat 999 / 10 % 10) s.cfg.xMin1 y x ∨
        GlyphCovers s.cfg (min m.toNat 999 % 10) s.cfg.xMin2 y x ∨
        GlyphCovers s.cfg (min sec.toNat 59 / 10) s.cfg.xSec0 y x ∨
        GlyphCovers s.cfg (min sec.toNat 59 % 10) s.cfg.xSec1 y x)

/-- Clamp (R128): minutes above 999 and seconds above 59 render as 999 and 59. -/
def Obligations.RenderClampsItsOperands : Prop :=
  ∀ (s : State) (m sec : U16),
    (999 < m.toNat → exec (.render m sec) s = exec (.render 999 sec) s) ∧
    (59 < sec.toNat → exec (.render m sec) s = exec (.render m 59) s)

/-- PUBLISH (R134): PB becomes RB, all of it, and nothing else changes. -/
def Obligations.PublishCopiesTheBuffer : Prop :=
  ∀ s : State, exec .publish s = .next { s with pb := s.rb, outs := [.ok .unit] }

/-- DISPLAY_STEP (R136, R139): the oldest notification, if there is one, is rendered and published; the slot is kicked
either way. -/
def Obligations.DisplayStepRendersTheOldest : Prop :=
  ∀ s : State,
    (s.nq = [] → exec .displayStep s = .next { s with
      lt := { s.lt with display := s.now }, outs := [.ok .unit] }) ∧
    (∀ (p : U16 × U16) (more : List (U16 × U16)), s.nq = p :: more → ∃ t : State,
      exec (.render p.1 p.2) s = .next t ∧ exec .displayStep s = .next { s with
        nq := more, rb := t.rb, pb := t.rb, lt := { s.lt with display := s.now }, outs := [.ok .unit] })

/-- What changes the published bitmap (R137): a PUBLISH, a DISPLAY_STEP that had a notification, or a watchdog reset;
and where the schedule is the block's own, in which a PUBLISH happens only inside a DISPLAY_STEP, only the last two. -/
def Obligations.OnlyPublicationChangesTheBitmap : Prop :=
  (∀ (i : Instr) (s t : State), exec i s = .next t → t.pb ≠ s.pb →
    i = .publish ∨ (i = .displayStep ∧ s.nq ≠ []) ∨ ∃ d, i = .timeAdvance d ∧ Expires d s) ∧
  ∀ s t : State, BlockSchedule s → step s = .next t → t.pb ≠ s.pb →
    ∃ r more i, s.pending = .operation r :: more ∧ decodeRequest r = .ok i ∧
      ((i = .displayStep ∧ s.nq ≠ []) ∨ ∃ d, i = .timeAdvance d ∧ Expires d s)

/-- The display and the scan read no register and no latch, and write none, in any operation of theirs (R138;
40_register_file.md R89; 20_memory.md R59; 43_scan_engine.md R152). -/
def Obligations.DisplayAndScanIgnoreRegisters : Prop :=
  ∀ (i : Instr) (s : State) (r : Vector U16 32) (tl : TimeLatch),
    (.display ∈ agentsOf i ∨ .scan ∈ agentsOf i) →
    ∃ t : State, exec i s = .next t ∧ t.reg = s.reg ∧ t.tl = s.tl ∧
      exec i { s with reg := r, tl := tl } = .next { t with reg := r, tl := tl }

/-! ## The scan engine (43_scan_engine.md) -/

/-- SCAN_STEP (R146, R141, R152; 30_encoding.md R83) in an untimed model, or a timed one without overrun: the events of
one step, the next row, the pins as the events leave them; nothing changes but SROW, the pins, the panel and PT. -/
def Obligations.ScanStepEmitsTheSequence : Prop :=
  ∀ s : State, (∀ d, s.cfg.scanStepNs = some d → d * s.cfg.fScan < 1000000000) → ∃ (seq : List Bool) (panel : Panel),
    seq = shiftSeq s.cfg s.pb s.srow ∧ seq.length = s.cfg.shiftLen ∧
    exec .scanStep s = .next { s with
      srow := (s.srow + 1) % s.cfg.scanRows
      pins := ⟨true, s.srow, seq.getLast?.getD s.pins.data, if seq = [] then s.pins.clk else false, false⟩
      panel := panel
      pt := s.pt ++ (([.oe false, .addr s.srow] : List PinEvent)
        ++ seq.flatMap (fun b => [PinEvent.data b, PinEvent.clk true, PinEvent.clk false])
        ++ [PinEvent.lat true, PinEvent.lat false, PinEvent.oe true]).map .item
      outs := [.ok .unit] }

/-- Fold and bit order (R144, R145): under FOLD_MOD column c of scan row s is lit when one of the logical rows s, s+R,
s+2R, ... below s+16 is; under a fold given as a table (the model's form, log 11), when the entry for s and c is
true of the bitmap; MSB_FIRST shifts column 0 first and REVERSED the last column first. -/
def Obligations.ShiftSequenceFoldsAndOrders : Prop :=
  ∀ (cfg : Config) (pb : Bitmap) (s c : Nat), c < cfg.shiftLen →
    (cfg.fold = .mod →
      ((foldRow cfg pb s)[c]? = some true ↔ ∃ g, g < 16 / cfg.scanRows ∧ bitmapGet pb (s + g * cfg.scanRows) c = true)) ∧
    (∀ len rows row e, cfg.fold = .other len rows → rows[s]? = some row → row[c]? = some e →
      (foldRow cfg pb s)[c]? = some (evalPixel pb e)) ∧
    (cfg.bitOrder = .msbFirst → (shiftSeq cfg pb s)[c]? = (foldRow cfg pb s)[c]?) ∧
    (cfg.bitOrder = .reversed → (shiftSeq cfg pb s)[c]? = (foldRow cfg pb s)[cfg.shiftLen - 1 - c]?)

/-- FOLD_MOD covers all 16 logical rows with R scan rows (R144; 90_conflicts.md C1): a column is lit in some scan row
exactly when it is lit in some logical row, and logical row y is shown by scan row y mod R. -/
def Obligations.FoldModCoversEveryRow : Prop :=
  ∀ (cfg : Config) (pb : Bitmap) (c : Nat), cfg.fold = .mod → c < cfg.width →
    ((∃ s, s < cfg.scanRows ∧ (foldRow cfg pb s)[c]? = some true) ↔ ∃ y, y < 16 ∧ bitmapGet pb y c = true) ∧
    ∀ y, y < 16 → bitmapGet pb y c = true → (foldRow cfg pb (y % cfg.scanRows))[c]? = some true

/-- Blank before address and enable after latch (R147, R148): after every proper, non-empty part of a scan step's
events OE is 0, the first event blanks, and OE rises only as the last event, after LAT fell. -/
def Obligations.ScanStepStaysBlanked : Prop :=
  ∀ (s t : State) (es : List PinEvent), exec .scanStep s = .next t → t.pt = s.pt ++ es.map .item →
    es.head? = some (.oe false) ∧
    (∀ pre post, es = pre ++ post → pre ≠ [] → post ≠ [] → (emitAll s pre).pins.oe = false) ∧
    (∀ pre post, es = pre ++ .oe true :: post → post = [] ∧ .lat false ∈ pre) ∧
    (∀ pre post n, es = pre ++ .addr n :: post → (emitAll s pre).pins.oe = false)

/-- What the panel shows (R150, R149): after a scan step of row s, the row and the bits it shifted, on the LEDs that the
panel's wiring gives them, whatever the wiring (log 27); during the step, nothing. CLK and LAT are low between steps and
SR has L bits, as the invariant says. -/
def Obligations.ScanStepShowsTheRow : Prop :=
  ∀ s t : State, s.pins.clk = false → s.pins.lat = false → s.panel.sr.length = s.cfg.shiftLen →
    exec .scanStep s = .next t →
    t.panel.lr = shiftSeq s.cfg s.pb s.srow ∧ t.shown = some (s.srow, shiftSeq s.cfg s.pb s.srow) ∧
    (∀ y x : Nat, t.ledLit y x = true ↔ (∃ ys, s.cfg.wiring.rows[s.srow]? = some ys ∧ y ∈ ys) ∧
      ∃ i : Nat, (shiftSeq s.cfg s.pb s.srow)[i]? = some true ∧ s.cfg.wiring.columns[i]? = some x) ∧
    ∀ es pre post, t.pt = s.pt ++ es.map .item → es = pre ++ post → pre ≠ [] → post ≠ [] →
      (emitAll s pre).shown = none ∧ ∀ y x, (emitAll s pre).ledLit y x = false

/-- The panel goes on showing what it shows until the next scan step or a watchdog reset (R150). -/
def Obligations.OnlyScanStepsChangeTheDisplay : Prop :=
  ∀ (i : Instr) (s t : State), exec i s = .next t → i ≠ .scanStep → (∀ d, i = .timeAdvance d → ¬ Expires d s) →
    t.shown = s.shown ∧ (∀ y x, t.ledLit y x = s.ledLit y x) ∧ t.pins = s.pins ∧ t.pt = s.pt ∧ t.srow = s.srow

/-- Round robin (R141, R151): n scan steps advance SROW by n modulo R, and the last of them drove the row before. -/
def Obligations.ScanStepsGoRound : Prop :=
  ∀ (s : State) (n : Nat), s.srow < s.cfg.scanRows → ∃ t : State,
    execAll (List.replicate n .scanStep) s = .next t ∧ t.srow = (s.srow + n) % s.cfg.scanRows ∧
    (1 ≤ n → t.pins.addr = (s.srow + (n - 1)) % s.cfg.scanRows)

/-- Scan overrun (70_reset_and_hazards.md R189) in a model that measures time, which the model does by the parameter
`scanStepNs` (log 12): the step sets FAULT, and no step follows (log 13). -/
def Obligations.ScanOverrunFaults : Prop :=
  ∀ (s : State) (d : Nat), s.cfg.scanStepNs = some d → 1000000000 ≤ d * s.cfg.fScan →
    ∃ t : State, exec .scanStep s = .next t ∧ t.fault = some .scanOverrun ∧ step t = .fault .scanOverrun

/-! ## Supervisor, watchdog, clock (60_exceptions.md) -/

/-- KICK (R165): its slot becomes `now`, and nothing else changes. -/
def Obligations.KickRecordsNow : Prop :=
  ∀ (s : State) (slot : Slot), ∃ l : Liveness, l.get slot = s.now ∧ (∀ j, j ≠ slot → l.get j = s.lt.get j) ∧
    exec (.kick slot) s = .next { s with lt := l, outs := [.ok .unit] }

/-- SUPERVISOR_CYCLE (R166): its own slot first; the running watchdog is reloaded when every age is below THRESH,
strictly, and starved otherwise. The slots are read one after another (20_memory.md R61): a turn of the supervisor that is
one read judges one slot at its instant, other agents' turns may stand between two reads, and four reads with nothing
between them are the whole cycle. The order of the reads is the model's reading (log 14). -/
def Obligations.SupervisorKicksWhenHealthy : Prop :=
  ∀ s : State,
    ((∀ slot, slot ≠ .supervisor → s.now - s.lt.get slot < s.cfg.wdtTimeout - s.cfg.wdtMargin) →
      s.cfg.wdtMargin < s.cfg.wdtTimeout →
      exec .supervisorCycle s = .next { s with
        lt := { s.lt with supervisor := s.now }
        wdtCnt := if s.wdtRun = true then s.cfg.wdtTimeout else s.wdtCnt
        outs := [.ok .unit] }) ∧
    ((∃ slot, slot ≠ .supervisor ∧ s.cfg.wdtTimeout - s.cfg.wdtMargin ≤ s.now - s.lt.get slot) →
      exec .supervisorCycle s = .next { s with lt := { s.lt with supervisor := s.now }, outs := [.ok .unit] }) ∧
    (∀ more, s.fault = none → configLegal s.cfg = true → s.pending = .superviseRead :: more →
      (s.sup = none → step s = .next { s with
        pending := more
        lt := { s.lt with supervisor := s.now }
        sup := some ⟨.logger, [.display, .supervisor],
          decide (s.now - s.lt.get .proto < s.cfg.wdtTimeout - s.cfg.wdtMargin)⟩
        outs := [] }) ∧
      (∀ slot next rest ok, s.sup = some ⟨slot, next :: rest, ok⟩ → step s = .next { s with
        pending := more
        sup := some ⟨next, rest, ok && decide (s.now - s.lt.get slot < s.cfg.wdtTimeout - s.cfg.wdtMargin)⟩
        outs := [] }) ∧
      (∀ slot ok, s.sup = some ⟨slot, [], ok⟩ → step s = .next { s with
        pending := more
        wdtCnt := if ok = true ∧ s.now - s.lt.get slot < s.cfg.wdtTimeout - s.cfg.wdtMargin ∧ s.wdtRun = true then
            s.cfg.wdtTimeout else s.wdtCnt
        sup := none
        outs := [.ok .unit] })) ∧
    (∀ more, s.fault = none → configLegal s.cfg = true → s.sup = none →
      s.pending = .superviseRead :: .superviseRead :: .superviseRead :: .superviseRead :: more →
      Sys2Proof.core.run 4 s = exec .supervisorCycle { s with pending := more })

/-- WATCHDOG_INIT and WATCHDOG_KICK (R167, R168): the first call starts the countdown and a second changes nothing; a
kick reloads a running countdown and otherwise changes nothing. Where the schedule is the block's own, it stays so; the
supervisor does not touch its slot before its WATCHDOG_INIT, which gives the countdown WDT_TIMEOUT; and the running
countdown stays above 0 and at most WDT_TIMEOUT (70_reset_and_hazards.md R182; log 17). -/
def Obligations.WatchdogInitAndKick : Prop :=
  (∀ (s : State) (t : Nat),
    (s.wdtRun = false →
      exec (.watchdogInit t) s = .next { s with wdtRun := true, wdtCnt := t, outs := [.ok .unit] } ∧
      exec .watchdogKick s = .next { s with outs := [.ok .unit] }) ∧
    (s.wdtRun = true →
      exec (.watchdogInit t) s = .next { s with outs := [.ok .unit] } ∧
      exec .watchdogKick s = .next { s with wdtCnt := s.cfg.wdtTimeout, outs := [.ok .unit] })) ∧
  ∀ s u : State, BlockSchedule s → step s = .next u →
    BlockSchedule u ∧ (CountdownInRange s → CountdownInRange u) ∧
    (s.wdtRun = false → u.lt.supervisor = s.lt.supervisor ∧ (u.wdtRun = true → u.wdtCnt = s.cfg.wdtTimeout))

/-- TIME_ADVANCE (R169): `now` moves by d; a running countdown goes down by d, or, when d uses it up, forces the block
reset, whose every value `ExpiryResetsTheBlock` states. -/
def Obligations.TimeAdvanceCountsDown : Prop :=
  ∀ (s : State) (d : Nat),
    (s.wdtRun = false → exec (.timeAdvance d) s = .next { s with now := s.now + d, outs := [.ok .unit] }) ∧
    (s.wdtRun = true → d < s.wdtCnt → exec (.timeAdvance d) s = .next { s with
      now := s.now + d, wdtCnt := s.wdtCnt - d, outs := [.ok .unit] }) ∧
    (s.wdtRun = true → s.wdtCnt ≤ d → exec (.timeAdvance d) s = .next
      { blockReset { s with now := s.now + d } with outs := [.ok .unit] })

/-- The watchdog reset (R169, R170; 70_reset_and_hazards.md R177, R179): every piece of state at its reset value, the
configuration and the advanced time kept, one RESET marker on each trace; RB and WDT_CNT are unspecified. The schedule
stays (log 1). -/
def Obligations.ExpiryResetsTheBlock : Prop :=
  ∀ (s : State) (d : Nat), Expires d s → ∃ t : State, exec (.timeAdvance d) s = .next t ∧
    t.cfg = s.cfg ∧ t.now = s.now + d ∧ t.tl = ⟨false, 0, 0⟩ ∧ t.pb = Bitmap.blank s.cfg.width ∧ t.srow = 0 ∧
    t.pins = ⟨false, 0, false, false, false⟩ ∧ t.panel.sr = List.replicate s.cfg.shiftLen false ∧
    t.panel.lr = List.replicate s.cfg.shiftLen false ∧ t.shown = none ∧ t.buf = [] ∧ t.conn = .closed ∧ t.nq = [] ∧
    (∀ slot, t.lt.get slot = s.now + d) ∧ t.wdtRun = false ∧ t.sup = none ∧ t.fault = none ∧ t.pt = s.pt ++ [.reset] ∧
    t.rt = s.rt ++ [.reset] ∧ t.ln = s.ln ++ [.reset] ∧ t.reg = State.resetTable s.cfg.resetFill ∧
    t.pending = s.pending

/-- Starvation (R171), with uninterrupted cycles: once a slot is no longer kicked, and no step but the supervisor's
healthy cycle reloads the watchdog, every run of whole operations in which the watchdog has not expired ends before
t0 + THRESH + WDT_TIMEOUT. A cycle that other turns interrupt (log 14) is no operation of such a run: with a clock step
between two reads it may end, and reload the watchdog, after t0 + THRESH. That R171 speaks of cycles at one time is the
model's choice (log 26). -/
def Obligations.StarvedWatchdogExpires : Prop :=
  ∀ (slot : Slot) (is : List Instr) (s t : State), s.wdtRun = true → 0 < s.wdtCnt →
    s.wdtCnt ≤ s.cfg.wdtTimeout → s.lt.get slot = s.now → (∀ i ∈ is, kicks slot i = false ∧ i ≠ .watchdogKick) →
    execAll is s = .next t → resetCount t = resetCount s →
    t.now < s.now + s.cfg.thresh + s.cfg.wdtTimeout

/-- No expiry while the block is healthy (R171), with uninterrupted cycles: from a freshly kicked running watchdog, if
every slot is younger than THRESH at every SUPERVISOR_CYCLE, and the clock never moves WDT_TIMEOUT or more beyond the last
cycle, no run of whole operations holds a reset. The supervisor's slot is written by its cycles alone. A cycle that
other turns interrupt (log 14) is no operation of such a run: it kicks its slot at its first read and the watchdog at its
last. That R171 speaks of cycles at one time is the model's choice (log 26). -/
def Obligations.FedWatchdogNeverExpires : Prop :=
  ∀ (is : List Instr) (s t : State), s.wdtRun = true → s.wdtCnt = s.cfg.wdtTimeout → s.lt.supervisor = s.now →
    s.cfg.wdtMargin < s.cfg.wdtTimeout → .kick .supervisor ∉ is →
    (∀ pre i post u, is = pre ++ i :: post → execAll pre s = .next u →
      (i = .supervisorCycle → ∀ slot, slot ≠ .supervisor → u.now - u.lt.get slot < u.cfg.thresh) ∧
      (∀ d, i = .timeAdvance d → u.now + d - u.lt.supervisor < u.cfg.wdtTimeout)) →
    execAll is s = .next t → resetCount t = resetCount s

/-! ## The whole machine -/

/-- The configuration does not change while the block runs (00_scope.md R9), not even at a reset
(70_reset_and_hazards.md R177). -/
def Obligations.ConfigurationNeverChanges : Prop :=
  ∀ s t : State, step s = .next t → t.cfg = s.cfg

/-- `now` never decreases (10_state.md R37), and only the clock moves it. -/
def Obligations.TimeMovesOnlyByTheClock : Prop :=
  ∀ (i : Instr) (s t : State), exec i s = .next t →
    s.now ≤ t.now ∧ (t.now ≠ s.now → ∃ d, i = .timeAdvance d ∧ t.now = s.now + d)

/-- What is cleared only by reset (10_state.md R39, R41; 60_exceptions.md R167): FAULT once set, and the running
watchdog. -/
def Obligations.FaultAndWatchdogPersist : Prop :=
  ∀ (i : Instr) (s t : State), exec i s = .next t → (∀ d, i = .timeAdvance d → ¬ Expires d s) →
    (s.fault ≠ none → t.fault ≠ none) ∧ (s.wdtRun = true → t.wdtRun = true)

/-- The latch stays set until consumed (10_state.md R23): only CONSUME_CHANGED_TIME, the host writes, which consume
(41_host_commands.md R116), and a watchdog reset clear it. -/
def Obligations.DirtyUntilConsumed : Prop :=
  ∀ (i : Instr) (s t : State), exec i s = .next t → s.tl.dirty = true → t.tl.dirty = false →
    i = .consumeChangedTime ∨ (∃ h req, i = .writeSingle h req) ∨ (∃ h req, i = .writeMultiple h req) ∨
      (∃ c, i = .receiveChunk c) ∨ ∃ d, i = .timeAdvance d ∧ Expires d s

/-- The latch is clean between the block's own steps (41_host_commands.md R116, 40_register_file.md R89,
95_test_vectors.md section 2.1): direct register writes aside, every operation that finds it clean leaves it clean, and
so does every step of a schedule that is the block's own. -/
def Obligations.LatchCleanBetweenBlockSteps : Prop :=
  (∀ (i : Instr) (s t : State), (∀ a v, i ≠ .write a v) → (∀ a vs, i ≠ .writeBlock a vs) → s.tl.dirty = false →
    exec i s = .next t → t.tl.dirty = false) ∧
  ∀ s t : State, BlockSchedule s → s.tl.dirty = false → step s = .next t → t.tl.dirty = false

/-- Who writes the register table (40_register_file.md R89, R93; 60_exceptions.md R164): a register differs after a
step only if the step is a write, a host write, a chunk that may hold one, or a watchdog reset. -/
def Obligations.OnlyWritesChangeRegisters : Prop :=
  ∀ (i : Instr) (s t : State), exec i s = .next t → t.reg ≠ s.reg →
    (∃ a v, i = .write a v) ∨ (∃ a vs, i = .writeBlock a vs) ∨ (∃ h req, i = .writeSingle h req) ∨
      (∃ h req, i = .writeMultiple h req) ∨ (∃ c, i = .receiveChunk c) ∨ ∃ d, i = .timeAdvance d ∧ Expires d s

/-- Notifications are first in first out and bounded (10_state.md R34; 20_memory.md R60; 41_host_commands.md R117): a
step appends at the end and never beyond NQ_DEPTH, and only DISPLAY_STEP takes one, from the front. -/
def Obligations.NotificationQueueIsBoundedFifo : Prop :=
  ∀ (i : Instr) (s t : State), exec i s = .next t → (∀ d, i = .timeAdvance d → ¬ Expires d s) →
    (i ≠ .displayStep → ∃ new, t.nq = s.nq ++ new ∧ (new ≠ [] → t.nq.length ≤ s.cfg.nqDepth)) ∧
    (i = .displayStep → t.nq = s.nq.tail)

/-- Power-on meets the invariant. -/
def Obligations.ResetMeetsTheInvariant : Prop := Inv State.reset

/-- Every step keeps the invariant: the latch tracks the time registers (10_state.md R22), the bitmaps keep their
shape (R24, R26), the row counter and the row address stay below R (R27, R28), CLK and LAT rest low, the panel holds L
bits (R30), the buffer is within its capacity and holds no complete frame and no bad header (R31;
41_host_commands.md R108), a closed connection has an empty buffer, the queue is within its depth (R34), an interrupted
cycle of the supervisor still has its last slots to read (20_memory.md R61, log 14), and no liveness slot is ahead of
`now` (R36, R37). -/
def Obligations.StepKeepsTheInvariant : Prop :=
  ∀ s t : State, Inv s → step s = .next t → Inv t
end

