-- ==== Sys2Proof/Laws/State.lean ====
section
/-! SUPPORT. One lemma per field per named update of the state, so that no proof unfolds a record update. -/

namespace Sys2Proof.Machine

/-! ### State.begin -/

@[simp] theorem State.begin_cfg (s : State) : s.begin.cfg = s.cfg := rfl
@[simp] theorem State.begin_reg (s : State) : s.begin.reg = s.reg := rfl
@[simp] theorem State.begin_tl (s : State) : s.begin.tl = s.tl := rfl
@[simp] theorem State.begin_pb (s : State) : s.begin.pb = s.pb := rfl
@[simp] theorem State.begin_rb (s : State) : s.begin.rb = s.rb := rfl
@[simp] theorem State.begin_srow (s : State) : s.begin.srow = s.srow := rfl
@[simp] theorem State.begin_pins (s : State) : s.begin.pins = s.pins := rfl
@[simp] theorem State.begin_pt (s : State) : s.begin.pt = s.pt := rfl
@[simp] theorem State.begin_panel (s : State) : s.begin.panel = s.panel := rfl
@[simp] theorem State.begin_buf (s : State) : s.begin.buf = s.buf := rfl
@[simp] theorem State.begin_conn (s : State) : s.begin.conn = s.conn := rfl
@[simp] theorem State.begin_rt (s : State) : s.begin.rt = s.rt := rfl
@[simp] theorem State.begin_nq (s : State) : s.begin.nq = s.nq := rfl
@[simp] theorem State.begin_ln (s : State) : s.begin.ln = s.ln := rfl
@[simp] theorem State.begin_lt (s : State) : s.begin.lt = s.lt := rfl
@[simp] theorem State.begin_now (s : State) : s.begin.now = s.now := rfl
@[simp] theorem State.begin_wdtRun (s : State) : s.begin.wdtRun = s.wdtRun := rfl
@[simp] theorem State.begin_wdtCnt (s : State) : s.begin.wdtCnt = s.wdtCnt := rfl
@[simp] theorem State.begin_fault (s : State) : s.begin.fault = s.fault := rfl
@[simp] theorem State.begin_sup (s : State) : s.begin.sup = s.sup := rfl
@[simp] theorem State.begin_pending (s : State) : s.begin.pending = s.pending := rfl
@[simp] theorem State.begin_outs (s : State) : s.begin.outs = [] := rfl
@[simp] theorem State.begin_free (s : State) : s.begin.free = s.free := rfl

/-! ### State.push -/

@[simp] theorem State.push_cfg (o : OpOutcome) (s : State) : (s.push o).cfg = s.cfg := rfl
@[simp] theorem State.push_reg (o : OpOutcome) (s : State) : (s.push o).reg = s.reg := rfl
@[simp] theorem State.push_tl (o : OpOutcome) (s : State) : (s.push o).tl = s.tl := rfl
@[simp] theorem State.push_pb (o : OpOutcome) (s : State) : (s.push o).pb = s.pb := rfl
@[simp] theorem State.push_rb (o : OpOutcome) (s : State) : (s.push o).rb = s.rb := rfl
@[simp] theorem State.push_srow (o : OpOutcome) (s : State) : (s.push o).srow = s.srow := rfl
@[simp] theorem State.push_pins (o : OpOutcome) (s : State) : (s.push o).pins = s.pins := rfl
@[simp] theorem State.push_pt (o : OpOutcome) (s : State) : (s.push o).pt = s.pt := rfl
@[simp] theorem State.push_panel (o : OpOutcome) (s : State) : (s.push o).panel = s.panel := rfl
@[simp] theorem State.push_buf (o : OpOutcome) (s : State) : (s.push o).buf = s.buf := rfl
@[simp] theorem State.push_conn (o : OpOutcome) (s : State) : (s.push o).conn = s.conn := rfl
@[simp] theorem State.push_rt (o : OpOutcome) (s : State) : (s.push o).rt = s.rt := rfl
@[simp] theorem State.push_nq (o : OpOutcome) (s : State) : (s.push o).nq = s.nq := rfl
@[simp] theorem State.push_ln (o : OpOutcome) (s : State) : (s.push o).ln = s.ln := rfl
@[simp] theorem State.push_lt (o : OpOutcome) (s : State) : (s.push o).lt = s.lt := rfl
@[simp] theorem State.push_now (o : OpOutcome) (s : State) : (s.push o).now = s.now := rfl
@[simp] theorem State.push_wdtRun (o : OpOutcome) (s : State) : (s.push o).wdtRun = s.wdtRun := rfl
@[simp] theorem State.push_wdtCnt (o : OpOutcome) (s : State) : (s.push o).wdtCnt = s.wdtCnt := rfl
@[simp] theorem State.push_fault (o : OpOutcome) (s : State) : (s.push o).fault = s.fault := rfl
@[simp] theorem State.push_sup (o : OpOutcome) (s : State) : (s.push o).sup = s.sup := rfl
@[simp] theorem State.push_pending (o : OpOutcome) (s : State) : (s.push o).pending = s.pending := rfl
@[simp] theorem State.push_outs (o : OpOutcome) (s : State) : (s.push o).outs = s.outs ++ [o] := rfl
@[simp] theorem State.push_free (o : OpOutcome) (s : State) : (s.push o).free = s.free := rfl

/-! ### State.done -/

@[simp] theorem State.done_cfg (o : OpOutcome) (s : State) : (s.done o).cfg = s.cfg := rfl
@[simp] theorem State.done_reg (o : OpOutcome) (s : State) : (s.done o).reg = s.reg := rfl
@[simp] theorem State.done_tl (o : OpOutcome) (s : State) : (s.done o).tl = s.tl := rfl
@[simp] theorem State.done_pb (o : OpOutcome) (s : State) : (s.done o).pb = s.pb := rfl
@[simp] theorem State.done_rb (o : OpOutcome) (s : State) : (s.done o).rb = s.rb := rfl
@[simp] theorem State.done_srow (o : OpOutcome) (s : State) : (s.done o).srow = s.srow := rfl
@[simp] theorem State.done_pins (o : OpOutcome) (s : State) : (s.done o).pins = s.pins := rfl
@[simp] theorem State.done_pt (o : OpOutcome) (s : State) : (s.done o).pt = s.pt := rfl
@[simp] theorem State.done_panel (o : OpOutcome) (s : State) : (s.done o).panel = s.panel := rfl
@[simp] theorem State.done_buf (o : OpOutcome) (s : State) : (s.done o).buf = s.buf := rfl
@[simp] theorem State.done_conn (o : OpOutcome) (s : State) : (s.done o).conn = s.conn := rfl
@[simp] theorem State.done_rt (o : OpOutcome) (s : State) : (s.done o).rt = s.rt := rfl
@[simp] theorem State.done_nq (o : OpOutcome) (s : State) : (s.done o).nq = s.nq := rfl
@[simp] theorem State.done_ln (o : OpOutcome) (s : State) : (s.done o).ln = s.ln := rfl
@[simp] theorem State.done_lt (o : OpOutcome) (s : State) : (s.done o).lt = s.lt := rfl
@[simp] theorem State.done_now (o : OpOutcome) (s : State) : (s.done o).now = s.now := rfl
@[simp] theorem State.done_wdtRun (o : OpOutcome) (s : State) : (s.done o).wdtRun = s.wdtRun := rfl
@[simp] theorem State.done_wdtCnt (o : OpOutcome) (s : State) : (s.done o).wdtCnt = s.wdtCnt := rfl
@[simp] theorem State.done_fault (o : OpOutcome) (s : State) : (s.done o).fault = s.fault := rfl
@[simp] theorem State.done_sup (o : OpOutcome) (s : State) : (s.done o).sup = s.sup := rfl
@[simp] theorem State.done_pending (o : OpOutcome) (s : State) : (s.done o).pending = s.pending := rfl
@[simp] theorem State.done_outs (o : OpOutcome) (s : State) : (s.done o).outs = [o] := rfl
@[simp] theorem State.done_free (o : OpOutcome) (s : State) : (s.done o).free = s.free := rfl

/-! ### sendReply -/

@[simp] theorem sendReply_cfg (h : FrameHead) (p : List Byte) (s : State) : (sendReply h p s).cfg = s.cfg := rfl
@[simp] theorem sendReply_reg (h : FrameHead) (p : List Byte) (s : State) : (sendReply h p s).reg = s.reg := rfl
@[simp] theorem sendReply_tl (h : FrameHead) (p : List Byte) (s : State) : (sendReply h p s).tl = s.tl := rfl
@[simp] theorem sendReply_pb (h : FrameHead) (p : List Byte) (s : State) : (sendReply h p s).pb = s.pb := rfl
@[simp] theorem sendReply_rb (h : FrameHead) (p : List Byte) (s : State) : (sendReply h p s).rb = s.rb := rfl
@[simp] theorem sendReply_srow (h : FrameHead) (p : List Byte) (s : State) : (sendReply h p s).srow = s.srow := rfl
@[simp] theorem sendReply_pins (h : FrameHead) (p : List Byte) (s : State) : (sendReply h p s).pins = s.pins := rfl
@[simp] theorem sendReply_pt (h : FrameHead) (p : List Byte) (s : State) : (sendReply h p s).pt = s.pt := rfl
@[simp] theorem sendReply_panel (h : FrameHead) (p : List Byte) (s : State) : (sendReply h p s).panel = s.panel := rfl
@[simp] theorem sendReply_buf (h : FrameHead) (p : List Byte) (s : State) : (sendReply h p s).buf = s.buf := rfl
@[simp] theorem sendReply_conn (h : FrameHead) (p : List Byte) (s : State) : (sendReply h p s).conn = s.conn := rfl
@[simp] theorem sendReply_rt (h : FrameHead) (p : List Byte) (s : State) : (sendReply h p s).rt = s.rt ++ [.item (frameBytes h p)] := rfl
@[simp] theorem sendReply_nq (h : FrameHead) (p : List Byte) (s : State) : (sendReply h p s).nq = s.nq := rfl
@[simp] theorem sendReply_ln (h : FrameHead) (p : List Byte) (s : State) : (sendReply h p s).ln = s.ln := rfl
@[simp] theorem sendReply_lt (h : FrameHead) (p : List Byte) (s : State) : (sendReply h p s).lt = s.lt := rfl
@[simp] theorem sendReply_now (h : FrameHead) (p : List Byte) (s : State) : (sendReply h p s).now = s.now := rfl
@[simp] theorem sendReply_wdtRun (h : FrameHead) (p : List Byte) (s : State) : (sendReply h p s).wdtRun = s.wdtRun := rfl
@[simp] theorem sendReply_wdtCnt (h : FrameHead) (p : List Byte) (s : State) : (sendReply h p s).wdtCnt = s.wdtCnt := rfl
@[simp] theorem sendReply_fault (h : FrameHead) (p : List Byte) (s : State) : (sendReply h p s).fault = s.fault := rfl
@[simp] theorem sendReply_sup (h : FrameHead) (p : List Byte) (s : State) : (sendReply h p s).sup = s.sup := rfl
@[simp] theorem sendReply_pending (h : FrameHead) (p : List Byte) (s : State) : (sendReply h p s).pending = s.pending := rfl
@[simp] theorem sendReply_outs (h : FrameHead) (p : List Byte) (s : State) : (sendReply h p s).outs = s.outs := rfl
@[simp] theorem sendReply_free (h : FrameHead) (p : List Byte) (s : State) : (sendReply h p s).free = s.free := rfl

/-! ### replyOk -/

@[simp] theorem replyOk_cfg (h : FrameHead) (p : List Byte) (s : State) : (replyOk h p s).cfg = s.cfg := rfl
@[simp] theorem replyOk_reg (h : FrameHead) (p : List Byte) (s : State) : (replyOk h p s).reg = s.reg := rfl
@[simp] theorem replyOk_tl (h : FrameHead) (p : List Byte) (s : State) : (replyOk h p s).tl = s.tl := rfl
@[simp] theorem replyOk_pb (h : FrameHead) (p : List Byte) (s : State) : (replyOk h p s).pb = s.pb := rfl
@[simp] theorem replyOk_rb (h : FrameHead) (p : List Byte) (s : State) : (replyOk h p s).rb = s.rb := rfl
@[simp] theorem replyOk_srow (h : FrameHead) (p : List Byte) (s : State) : (replyOk h p s).srow = s.srow := rfl
@[simp] theorem replyOk_pins (h : FrameHead) (p : List Byte) (s : State) : (replyOk h p s).pins = s.pins := rfl
@[simp] theorem replyOk_pt (h : FrameHead) (p : List Byte) (s : State) : (replyOk h p s).pt = s.pt := rfl
@[simp] theorem replyOk_panel (h : FrameHead) (p : List Byte) (s : State) : (replyOk h p s).panel = s.panel := rfl
@[simp] theorem replyOk_buf (h : FrameHead) (p : List Byte) (s : State) : (replyOk h p s).buf = s.buf := rfl
@[simp] theorem replyOk_conn (h : FrameHead) (p : List Byte) (s : State) : (replyOk h p s).conn = s.conn := rfl
@[simp] theorem replyOk_rt (h : FrameHead) (p : List Byte) (s : State) : (replyOk h p s).rt = s.rt ++ [.item (frameBytes h p)] := rfl
@[simp] theorem replyOk_nq (h : FrameHead) (p : List Byte) (s : State) : (replyOk h p s).nq = s.nq := rfl
@[simp] theorem replyOk_ln (h : FrameHead) (p : List Byte) (s : State) : (replyOk h p s).ln = s.ln := rfl
@[simp] theorem replyOk_lt (h : FrameHead) (p : List Byte) (s : State) : (replyOk h p s).lt = s.lt := rfl
@[simp] theorem replyOk_now (h : FrameHead) (p : List Byte) (s : State) : (replyOk h p s).now = s.now := rfl
@[simp] theorem replyOk_wdtRun (h : FrameHead) (p : List Byte) (s : State) : (replyOk h p s).wdtRun = s.wdtRun := rfl
@[simp] theorem replyOk_wdtCnt (h : FrameHead) (p : List Byte) (s : State) : (replyOk h p s).wdtCnt = s.wdtCnt := rfl
@[simp] theorem replyOk_fault (h : FrameHead) (p : List Byte) (s : State) : (replyOk h p s).fault = s.fault := rfl
@[simp] theorem replyOk_sup (h : FrameHead) (p : List Byte) (s : State) : (replyOk h p s).sup = s.sup := rfl
@[simp] theorem replyOk_pending (h : FrameHead) (p : List Byte) (s : State) : (replyOk h p s).pending = s.pending := rfl
@[simp] theorem replyOk_outs (h : FrameHead) (p : List Byte) (s : State) : (replyOk h p s).outs = s.outs ++ [.ok .unit] := rfl
@[simp] theorem replyOk_free (h : FrameHead) (p : List Byte) (s : State) : (replyOk h p s).free = s.free := rfl

/-! ### raiseExc -/

@[simp] theorem raiseExc_cfg (h : FrameHead) (fc code : Byte) (s : State) : (raiseExc h fc code s).cfg = s.cfg := rfl
@[simp] theorem raiseExc_reg (h : FrameHead) (fc code : Byte) (s : State) : (raiseExc h fc code s).reg = s.reg := rfl
@[simp] theorem raiseExc_tl (h : FrameHead) (fc code : Byte) (s : State) : (raiseExc h fc code s).tl = s.tl := rfl
@[simp] theorem raiseExc_pb (h : FrameHead) (fc code : Byte) (s : State) : (raiseExc h fc code s).pb = s.pb := rfl
@[simp] theorem raiseExc_rb (h : FrameHead) (fc code : Byte) (s : State) : (raiseExc h fc code s).rb = s.rb := rfl
@[simp] theorem raiseExc_srow (h : FrameHead) (fc code : Byte) (s : State) : (raiseExc h fc code s).srow = s.srow := rfl
@[simp] theorem raiseExc_pins (h : FrameHead) (fc code : Byte) (s : State) : (raiseExc h fc code s).pins = s.pins := rfl
@[simp] theorem raiseExc_pt (h : FrameHead) (fc code : Byte) (s : State) : (raiseExc h fc code s).pt = s.pt := rfl
@[simp] theorem raiseExc_panel (h : FrameHead) (fc code : Byte) (s : State) : (raiseExc h fc code s).panel = s.panel := rfl
@[simp] theorem raiseExc_buf (h : FrameHead) (fc code : Byte) (s : State) : (raiseExc h fc code s).buf = s.buf := rfl
@[simp] theorem raiseExc_conn (h : FrameHead) (fc code : Byte) (s : State) : (raiseExc h fc code s).conn = s.conn := rfl
@[simp] theorem raiseExc_rt (h : FrameHead) (fc code : Byte) (s : State) : (raiseExc h fc code s).rt = s.rt ++ [.item (frameBytes h [fc ||| 0x80, code])] := rfl
@[simp] theorem raiseExc_nq (h : FrameHead) (fc code : Byte) (s : State) : (raiseExc h fc code s).nq = s.nq := rfl
@[simp] theorem raiseExc_ln (h : FrameHead) (fc code : Byte) (s : State) : (raiseExc h fc code s).ln = s.ln := rfl
@[simp] theorem raiseExc_lt (h : FrameHead) (fc code : Byte) (s : State) : (raiseExc h fc code s).lt = s.lt := rfl
@[simp] theorem raiseExc_now (h : FrameHead) (fc code : Byte) (s : State) : (raiseExc h fc code s).now = s.now := rfl
@[simp] theorem raiseExc_wdtRun (h : FrameHead) (fc code : Byte) (s : State) : (raiseExc h fc code s).wdtRun = s.wdtRun := rfl
@[simp] theorem raiseExc_wdtCnt (h : FrameHead) (fc code : Byte) (s : State) : (raiseExc h fc code s).wdtCnt = s.wdtCnt := rfl
@[simp] theorem raiseExc_fault (h : FrameHead) (fc code : Byte) (s : State) : (raiseExc h fc code s).fault = s.fault := rfl
@[simp] theorem raiseExc_sup (h : FrameHead) (fc code : Byte) (s : State) : (raiseExc h fc code s).sup = s.sup := rfl
@[simp] theorem raiseExc_pending (h : FrameHead) (fc code : Byte) (s : State) : (raiseExc h fc code s).pending = s.pending := rfl
@[simp] theorem raiseExc_outs (h : FrameHead) (fc code : Byte) (s : State) : (raiseExc h fc code s).outs = s.outs ++ [.exc code] := rfl
@[simp] theorem raiseExc_free (h : FrameHead) (fc code : Byte) (s : State) : (raiseExc h fc code s).free = s.free := rfl

/-! ### resync -/

@[simp] theorem resync_cfg (r : ResyncReason) (s : State) : (resync r s).cfg = s.cfg := rfl
@[simp] theorem resync_reg (r : ResyncReason) (s : State) : (resync r s).reg = s.reg := rfl
@[simp] theorem resync_tl (r : ResyncReason) (s : State) : (resync r s).tl = s.tl := rfl
@[simp] theorem resync_pb (r : ResyncReason) (s : State) : (resync r s).pb = s.pb := rfl
@[simp] theorem resync_rb (r : ResyncReason) (s : State) : (resync r s).rb = s.rb := rfl
@[simp] theorem resync_srow (r : ResyncReason) (s : State) : (resync r s).srow = s.srow := rfl
@[simp] theorem resync_pins (r : ResyncReason) (s : State) : (resync r s).pins = s.pins := rfl
@[simp] theorem resync_pt (r : ResyncReason) (s : State) : (resync r s).pt = s.pt := rfl
@[simp] theorem resync_panel (r : ResyncReason) (s : State) : (resync r s).panel = s.panel := rfl
@[simp] theorem resync_buf (r : ResyncReason) (s : State) : (resync r s).buf = [] := rfl
@[simp] theorem resync_conn (r : ResyncReason) (s : State) : (resync r s).conn = s.conn := rfl
@[simp] theorem resync_rt (r : ResyncReason) (s : State) : (resync r s).rt = s.rt := rfl
@[simp] theorem resync_nq (r : ResyncReason) (s : State) : (resync r s).nq = s.nq := rfl
@[simp] theorem resync_ln (r : ResyncReason) (s : State) : (resync r s).ln = s.ln := rfl
@[simp] theorem resync_lt (r : ResyncReason) (s : State) : (resync r s).lt = s.lt := rfl
@[simp] theorem resync_now (r : ResyncReason) (s : State) : (resync r s).now = s.now := rfl
@[simp] theorem resync_wdtRun (r : ResyncReason) (s : State) : (resync r s).wdtRun = s.wdtRun := rfl
@[simp] theorem resync_wdtCnt (r : ResyncReason) (s : State) : (resync r s).wdtCnt = s.wdtCnt := rfl
@[simp] theorem resync_fault (r : ResyncReason) (s : State) : (resync r s).fault = s.fault := rfl
@[simp] theorem resync_sup (r : ResyncReason) (s : State) : (resync r s).sup = s.sup := rfl
@[simp] theorem resync_pending (r : ResyncReason) (s : State) : (resync r s).pending = s.pending := rfl
@[simp] theorem resync_outs (r : ResyncReason) (s : State) : (resync r s).outs = s.outs ++ [.resync r] := rfl
@[simp] theorem resync_free (r : ResyncReason) (s : State) : (resync r s).free = s.free := rfl

/-! ### notifyDisplay -/

@[simp] theorem notifyDisplay_cfg (m sec : U16) (s : State) : (notifyDisplay m sec s).cfg = s.cfg := rfl
@[simp] theorem notifyDisplay_reg (m sec : U16) (s : State) : (notifyDisplay m sec s).reg = s.reg := rfl
@[simp] theorem notifyDisplay_tl (m sec : U16) (s : State) : (notifyDisplay m sec s).tl = s.tl := rfl
@[simp] theorem notifyDisplay_pb (m sec : U16) (s : State) : (notifyDisplay m sec s).pb = s.pb := rfl
@[simp] theorem notifyDisplay_rb (m sec : U16) (s : State) : (notifyDisplay m sec s).rb = s.rb := rfl
@[simp] theorem notifyDisplay_srow (m sec : U16) (s : State) : (notifyDisplay m sec s).srow = s.srow := rfl
@[simp] theorem notifyDisplay_pins (m sec : U16) (s : State) : (notifyDisplay m sec s).pins = s.pins := rfl
@[simp] theorem notifyDisplay_pt (m sec : U16) (s : State) : (notifyDisplay m sec s).pt = s.pt := rfl
@[simp] theorem notifyDisplay_panel (m sec : U16) (s : State) : (notifyDisplay m sec s).panel = s.panel := rfl
@[simp] theorem notifyDisplay_buf (m sec : U16) (s : State) : (notifyDisplay m sec s).buf = s.buf := rfl
@[simp] theorem notifyDisplay_conn (m sec : U16) (s : State) : (notifyDisplay m sec s).conn = s.conn := rfl
@[simp] theorem notifyDisplay_rt (m sec : U16) (s : State) : (notifyDisplay m sec s).rt = s.rt := rfl
@[simp] theorem notifyDisplay_nq (m sec : U16) (s : State) : (notifyDisplay m sec s).nq = if s.nq.length < s.cfg.nqDepth then s.nq ++ [(m, sec)] else s.nq := rfl
@[simp] theorem notifyDisplay_ln (m sec : U16) (s : State) : (notifyDisplay m sec s).ln = s.ln := rfl
@[simp] theorem notifyDisplay_lt (m sec : U16) (s : State) : (notifyDisplay m sec s).lt = s.lt := rfl
@[simp] theorem notifyDisplay_now (m sec : U16) (s : State) : (notifyDisplay m sec s).now = s.now := rfl
@[simp] theorem notifyDisplay_wdtRun (m sec : U16) (s : State) : (notifyDisplay m sec s).wdtRun = s.wdtRun := rfl
@[simp] theorem notifyDisplay_wdtCnt (m sec : U16) (s : State) : (notifyDisplay m sec s).wdtCnt = s.wdtCnt := rfl
@[simp] theorem notifyDisplay_fault (m sec : U16) (s : State) : (notifyDisplay m sec s).fault = s.fault := rfl
@[simp] theorem notifyDisplay_sup (m sec : U16) (s : State) : (notifyDisplay m sec s).sup = s.sup := rfl
@[simp] theorem notifyDisplay_pending (m sec : U16) (s : State) : (notifyDisplay m sec s).pending = s.pending := rfl
@[simp] theorem notifyDisplay_outs (m sec : U16) (s : State) : (notifyDisplay m sec s).outs = s.outs := rfl
@[simp] theorem notifyDisplay_free (m sec : U16) (s : State) : (notifyDisplay m sec s).free = s.free := rfl

/-! ### notifyLogger -/

@[simp] theorem notifyLogger_cfg (m sec : U16) (s : State) : (notifyLogger m sec s).cfg = s.cfg := rfl
@[simp] theorem notifyLogger_reg (m sec : U16) (s : State) : (notifyLogger m sec s).reg = s.reg := rfl
@[simp] theorem notifyLogger_tl (m sec : U16) (s : State) : (notifyLogger m sec s).tl = s.tl := rfl
@[simp] theorem notifyLogger_pb (m sec : U16) (s : State) : (notifyLogger m sec s).pb = s.pb := rfl
@[simp] theorem notifyLogger_rb (m sec : U16) (s : State) : (notifyLogger m sec s).rb = s.rb := rfl
@[simp] theorem notifyLogger_srow (m sec : U16) (s : State) : (notifyLogger m sec s).srow = s.srow := rfl
@[simp] theorem notifyLogger_pins (m sec : U16) (s : State) : (notifyLogger m sec s).pins = s.pins := rfl
@[simp] theorem notifyLogger_pt (m sec : U16) (s : State) : (notifyLogger m sec s).pt = s.pt := rfl
@[simp] theorem notifyLogger_panel (m sec : U16) (s : State) : (notifyLogger m sec s).panel = s.panel := rfl
@[simp] theorem notifyLogger_buf (m sec : U16) (s : State) : (notifyLogger m sec s).buf = s.buf := rfl
@[simp] theorem notifyLogger_conn (m sec : U16) (s : State) : (notifyLogger m sec s).conn = s.conn := rfl
@[simp] theorem notifyLogger_rt (m sec : U16) (s : State) : (notifyLogger m sec s).rt = s.rt := rfl
@[simp] theorem notifyLogger_nq (m sec : U16) (s : State) : (notifyLogger m sec s).nq = s.nq := rfl
@[simp] theorem notifyLogger_ln (m sec : U16) (s : State) : (notifyLogger m sec s).ln = s.ln ++ [.item (m, sec)] := rfl
@[simp] theorem notifyLogger_lt (m sec : U16) (s : State) : (notifyLogger m sec s).lt = s.lt := rfl
@[simp] theorem notifyLogger_now (m sec : U16) (s : State) : (notifyLogger m sec s).now = s.now := rfl
@[simp] theorem notifyLogger_wdtRun (m sec : U16) (s : State) : (notifyLogger m sec s).wdtRun = s.wdtRun := rfl
@[simp] theorem notifyLogger_wdtCnt (m sec : U16) (s : State) : (notifyLogger m sec s).wdtCnt = s.wdtCnt := rfl
@[simp] theorem notifyLogger_fault (m sec : U16) (s : State) : (notifyLogger m sec s).fault = s.fault := rfl
@[simp] theorem notifyLogger_sup (m sec : U16) (s : State) : (notifyLogger m sec s).sup = s.sup := rfl
@[simp] theorem notifyLogger_pending (m sec : U16) (s : State) : (notifyLogger m sec s).pending = s.pending := rfl
@[simp] theorem notifyLogger_outs (m sec : U16) (s : State) : (notifyLogger m sec s).outs = s.outs := rfl
@[simp] theorem notifyLogger_free (m sec : U16) (s : State) : (notifyLogger m sec s).free = s.free := rfl

/-! ### kickSlot -/

@[simp] theorem kickSlot_cfg (i : Slot) (s : State) : (kickSlot i s).cfg = s.cfg := rfl
@[simp] theorem kickSlot_reg (i : Slot) (s : State) : (kickSlot i s).reg = s.reg := rfl
@[simp] theorem kickSlot_tl (i : Slot) (s : State) : (kickSlot i s).tl = s.tl := rfl
@[simp] theorem kickSlot_pb (i : Slot) (s : State) : (kickSlot i s).pb = s.pb := rfl
@[simp] theorem kickSlot_rb (i : Slot) (s : State) : (kickSlot i s).rb = s.rb := rfl
@[simp] theorem kickSlot_srow (i : Slot) (s : State) : (kickSlot i s).srow = s.srow := rfl
@[simp] theorem kickSlot_pins (i : Slot) (s : State) : (kickSlot i s).pins = s.pins := rfl
@[simp] theorem kickSlot_pt (i : Slot) (s : State) : (kickSlot i s).pt = s.pt := rfl
@[simp] theorem kickSlot_panel (i : Slot) (s : State) : (kickSlot i s).panel = s.panel := rfl
@[simp] theorem kickSlot_buf (i : Slot) (s : State) : (kickSlot i s).buf = s.buf := rfl
@[simp] theorem kickSlot_conn (i : Slot) (s : State) : (kickSlot i s).conn = s.conn := rfl
@[simp] theorem kickSlot_rt (i : Slot) (s : State) : (kickSlot i s).rt = s.rt := rfl
@[simp] theorem kickSlot_nq (i : Slot) (s : State) : (kickSlot i s).nq = s.nq := rfl
@[simp] theorem kickSlot_ln (i : Slot) (s : State) : (kickSlot i s).ln = s.ln := rfl
@[simp] theorem kickSlot_lt (i : Slot) (s : State) : (kickSlot i s).lt = s.lt.put s.now i := rfl
@[simp] theorem kickSlot_now (i : Slot) (s : State) : (kickSlot i s).now = s.now := rfl
@[simp] theorem kickSlot_wdtRun (i : Slot) (s : State) : (kickSlot i s).wdtRun = s.wdtRun := rfl
@[simp] theorem kickSlot_wdtCnt (i : Slot) (s : State) : (kickSlot i s).wdtCnt = s.wdtCnt := rfl
@[simp] theorem kickSlot_fault (i : Slot) (s : State) : (kickSlot i s).fault = s.fault := rfl
@[simp] theorem kickSlot_sup (i : Slot) (s : State) : (kickSlot i s).sup = s.sup := rfl
@[simp] theorem kickSlot_pending (i : Slot) (s : State) : (kickSlot i s).pending = s.pending := rfl
@[simp] theorem kickSlot_outs (i : Slot) (s : State) : (kickSlot i s).outs = s.outs := rfl
@[simp] theorem kickSlot_free (i : Slot) (s : State) : (kickSlot i s).free = s.free := rfl

/-! ### reloadWatchdog -/

@[simp] theorem reloadWatchdog_cfg (s : State) : (reloadWatchdog s).cfg = s.cfg := rfl
@[simp] theorem reloadWatchdog_reg (s : State) : (reloadWatchdog s).reg = s.reg := rfl
@[simp] theorem reloadWatchdog_tl (s : State) : (reloadWatchdog s).tl = s.tl := rfl
@[simp] theorem reloadWatchdog_pb (s : State) : (reloadWatchdog s).pb = s.pb := rfl
@[simp] theorem reloadWatchdog_rb (s : State) : (reloadWatchdog s).rb = s.rb := rfl
@[simp] theorem reloadWatchdog_srow (s : State) : (reloadWatchdog s).srow = s.srow := rfl
@[simp] theorem reloadWatchdog_pins (s : State) : (reloadWatchdog s).pins = s.pins := rfl
@[simp] theorem reloadWatchdog_pt (s : State) : (reloadWatchdog s).pt = s.pt := rfl
@[simp] theorem reloadWatchdog_panel (s : State) : (reloadWatchdog s).panel = s.panel := rfl
@[simp] theorem reloadWatchdog_buf (s : State) : (reloadWatchdog s).buf = s.buf := rfl
@[simp] theorem reloadWatchdog_conn (s : State) : (reloadWatchdog s).conn = s.conn := rfl
@[simp] theorem reloadWatchdog_rt (s : State) : (reloadWatchdog s).rt = s.rt := rfl
@[simp] theorem reloadWatchdog_nq (s : State) : (reloadWatchdog s).nq = s.nq := rfl
@[simp] theorem reloadWatchdog_ln (s : State) : (reloadWatchdog s).ln = s.ln := rfl
@[simp] theorem reloadWatchdog_lt (s : State) : (reloadWatchdog s).lt = s.lt := rfl
@[simp] theorem reloadWatchdog_now (s : State) : (reloadWatchdog s).now = s.now := rfl
@[simp] theorem reloadWatchdog_wdtRun (s : State) : (reloadWatchdog s).wdtRun = s.wdtRun := rfl
@[simp] theorem reloadWatchdog_wdtCnt (s : State) : (reloadWatchdog s).wdtCnt = if s.wdtRun then s.cfg.wdtTimeout else s.wdtCnt := rfl
@[simp] theorem reloadWatchdog_fault (s : State) : (reloadWatchdog s).fault = s.fault := rfl
@[simp] theorem reloadWatchdog_sup (s : State) : (reloadWatchdog s).sup = s.sup := rfl
@[simp] theorem reloadWatchdog_pending (s : State) : (reloadWatchdog s).pending = s.pending := rfl
@[simp] theorem reloadWatchdog_outs (s : State) : (reloadWatchdog s).outs = s.outs := rfl
@[simp] theorem reloadWatchdog_free (s : State) : (reloadWatchdog s).free = s.free := rfl

/-! ### latchEval -/

@[simp] theorem latchEval_cfg (s : State) : (latchEval s).cfg = s.cfg := rfl
@[simp] theorem latchEval_reg (s : State) : (latchEval s).reg = s.reg := rfl
@[simp] theorem latchEval_tl (s : State) : (latchEval s).tl = s.tl.eval (s.regAt 0) (s.regAt 1) := rfl
@[simp] theorem latchEval_pb (s : State) : (latchEval s).pb = s.pb := rfl
@[simp] theorem latchEval_rb (s : State) : (latchEval s).rb = s.rb := rfl
@[simp] theorem latchEval_srow (s : State) : (latchEval s).srow = s.srow := rfl
@[simp] theorem latchEval_pins (s : State) : (latchEval s).pins = s.pins := rfl
@[simp] theorem latchEval_pt (s : State) : (latchEval s).pt = s.pt := rfl
@[simp] theorem latchEval_panel (s : State) : (latchEval s).panel = s.panel := rfl
@[simp] theorem latchEval_buf (s : State) : (latchEval s).buf = s.buf := rfl
@[simp] theorem latchEval_conn (s : State) : (latchEval s).conn = s.conn := rfl
@[simp] theorem latchEval_rt (s : State) : (latchEval s).rt = s.rt := rfl
@[simp] theorem latchEval_nq (s : State) : (latchEval s).nq = s.nq := rfl
@[simp] theorem latchEval_ln (s : State) : (latchEval s).ln = s.ln := rfl
@[simp] theorem latchEval_lt (s : State) : (latchEval s).lt = s.lt := rfl
@[simp] theorem latchEval_now (s : State) : (latchEval s).now = s.now := rfl
@[simp] theorem latchEval_wdtRun (s : State) : (latchEval s).wdtRun = s.wdtRun := rfl
@[simp] theorem latchEval_wdtCnt (s : State) : (latchEval s).wdtCnt = s.wdtCnt := rfl
@[simp] theorem latchEval_fault (s : State) : (latchEval s).fault = s.fault := rfl
@[simp] theorem latchEval_sup (s : State) : (latchEval s).sup = s.sup := rfl
@[simp] theorem latchEval_pending (s : State) : (latchEval s).pending = s.pending := rfl
@[simp] theorem latchEval_outs (s : State) : (latchEval s).outs = s.outs := rfl
@[simp] theorem latchEval_free (s : State) : (latchEval s).free = s.free := rfl

/-! ### clearLatch -/

@[simp] theorem clearLatch_cfg (s : State) : (clearLatch s).cfg = s.cfg := rfl
@[simp] theorem clearLatch_reg (s : State) : (clearLatch s).reg = s.reg := rfl
@[simp] theorem clearLatch_tl (s : State) : (clearLatch s).tl = ⟨false, s.tl.lastMin, s.tl.lastSec⟩ := rfl
@[simp] theorem clearLatch_pb (s : State) : (clearLatch s).pb = s.pb := rfl
@[simp] theorem clearLatch_rb (s : State) : (clearLatch s).rb = s.rb := rfl
@[simp] theorem clearLatch_srow (s : State) : (clearLatch s).srow = s.srow := rfl
@[simp] theorem clearLatch_pins (s : State) : (clearLatch s).pins = s.pins := rfl
@[simp] theorem clearLatch_pt (s : State) : (clearLatch s).pt = s.pt := rfl
@[simp] theorem clearLatch_panel (s : State) : (clearLatch s).panel = s.panel := rfl
@[simp] theorem clearLatch_buf (s : State) : (clearLatch s).buf = s.buf := rfl
@[simp] theorem clearLatch_conn (s : State) : (clearLatch s).conn = s.conn := rfl
@[simp] theorem clearLatch_rt (s : State) : (clearLatch s).rt = s.rt := rfl
@[simp] theorem clearLatch_nq (s : State) : (clearLatch s).nq = s.nq := rfl
@[simp] theorem clearLatch_ln (s : State) : (clearLatch s).ln = s.ln := rfl
@[simp] theorem clearLatch_lt (s : State) : (clearLatch s).lt = s.lt := rfl
@[simp] theorem clearLatch_now (s : State) : (clearLatch s).now = s.now := rfl
@[simp] theorem clearLatch_wdtRun (s : State) : (clearLatch s).wdtRun = s.wdtRun := rfl
@[simp] theorem clearLatch_wdtCnt (s : State) : (clearLatch s).wdtCnt = s.wdtCnt := rfl
@[simp] theorem clearLatch_fault (s : State) : (clearLatch s).fault = s.fault := rfl
@[simp] theorem clearLatch_sup (s : State) : (clearLatch s).sup = s.sup := rfl
@[simp] theorem clearLatch_pending (s : State) : (clearLatch s).pending = s.pending := rfl
@[simp] theorem clearLatch_outs (s : State) : (clearLatch s).outs = s.outs := rfl
@[simp] theorem clearLatch_free (s : State) : (clearLatch s).free = s.free := rfl

/-! ### renderTo -/

@[simp] theorem renderTo_cfg (m sec : U16) (s : State) : (renderTo m sec s).cfg = s.cfg := rfl
@[simp] theorem renderTo_reg (m sec : U16) (s : State) : (renderTo m sec s).reg = s.reg := rfl
@[simp] theorem renderTo_tl (m sec : U16) (s : State) : (renderTo m sec s).tl = s.tl := rfl
@[simp] theorem renderTo_pb (m sec : U16) (s : State) : (renderTo m sec s).pb = s.pb := rfl
@[simp] theorem renderTo_rb (m sec : U16) (s : State) : (renderTo m sec s).rb = renderBitmap s.cfg m sec := rfl
@[simp] theorem renderTo_srow (m sec : U16) (s : State) : (renderTo m sec s).srow = s.srow := rfl
@[simp] theorem renderTo_pins (m sec : U16) (s : State) : (renderTo m sec s).pins = s.pins := rfl
@[simp] theorem renderTo_pt (m sec : U16) (s : State) : (renderTo m sec s).pt = s.pt := rfl
@[simp] theorem renderTo_panel (m sec : U16) (s : State) : (renderTo m sec s).panel = s.panel := rfl
@[simp] theorem renderTo_buf (m sec : U16) (s : State) : (renderTo m sec s).buf = s.buf := rfl
@[simp] theorem renderTo_conn (m sec : U16) (s : State) : (renderTo m sec s).conn = s.conn := rfl
@[simp] theorem renderTo_rt (m sec : U16) (s : State) : (renderTo m sec s).rt = s.rt := rfl
@[simp] theorem renderTo_nq (m sec : U16) (s : State) : (renderTo m sec s).nq = s.nq := rfl
@[simp] theorem renderTo_ln (m sec : U16) (s : State) : (renderTo m sec s).ln = s.ln := rfl
@[simp] theorem renderTo_lt (m sec : U16) (s : State) : (renderTo m sec s).lt = s.lt := rfl
@[simp] theorem renderTo_now (m sec : U16) (s : State) : (renderTo m sec s).now = s.now := rfl
@[simp] theorem renderTo_wdtRun (m sec : U16) (s : State) : (renderTo m sec s).wdtRun = s.wdtRun := rfl
@[simp] theorem renderTo_wdtCnt (m sec : U16) (s : State) : (renderTo m sec s).wdtCnt = s.wdtCnt := rfl
@[simp] theorem renderTo_fault (m sec : U16) (s : State) : (renderTo m sec s).fault = s.fault := rfl
@[simp] theorem renderTo_sup (m sec : U16) (s : State) : (renderTo m sec s).sup = s.sup := rfl
@[simp] theorem renderTo_pending (m sec : U16) (s : State) : (renderTo m sec s).pending = s.pending := rfl
@[simp] theorem renderTo_outs (m sec : U16) (s : State) : (renderTo m sec s).outs = s.outs := rfl
@[simp] theorem renderTo_free (m sec : U16) (s : State) : (renderTo m sec s).free = s.free := rfl

/-! ### publishBuffer -/

@[simp] theorem publishBuffer_cfg (s : State) : (publishBuffer s).cfg = s.cfg := rfl
@[simp] theorem publishBuffer_reg (s : State) : (publishBuffer s).reg = s.reg := rfl
@[simp] theorem publishBuffer_tl (s : State) : (publishBuffer s).tl = s.tl := rfl
@[simp] theorem publishBuffer_pb (s : State) : (publishBuffer s).pb = s.rb := rfl
@[simp] theorem publishBuffer_rb (s : State) : (publishBuffer s).rb = s.rb := rfl
@[simp] theorem publishBuffer_srow (s : State) : (publishBuffer s).srow = s.srow := rfl
@[simp] theorem publishBuffer_pins (s : State) : (publishBuffer s).pins = s.pins := rfl
@[simp] theorem publishBuffer_pt (s : State) : (publishBuffer s).pt = s.pt := rfl
@[simp] theorem publishBuffer_panel (s : State) : (publishBuffer s).panel = s.panel := rfl
@[simp] theorem publishBuffer_buf (s : State) : (publishBuffer s).buf = s.buf := rfl
@[simp] theorem publishBuffer_conn (s : State) : (publishBuffer s).conn = s.conn := rfl
@[simp] theorem publishBuffer_rt (s : State) : (publishBuffer s).rt = s.rt := rfl
@[simp] theorem publishBuffer_nq (s : State) : (publishBuffer s).nq = s.nq := rfl
@[simp] theorem publishBuffer_ln (s : State) : (publishBuffer s).ln = s.ln := rfl
@[simp] theorem publishBuffer_lt (s : State) : (publishBuffer s).lt = s.lt := rfl
@[simp] theorem publishBuffer_now (s : State) : (publishBuffer s).now = s.now := rfl
@[simp] theorem publishBuffer_wdtRun (s : State) : (publishBuffer s).wdtRun = s.wdtRun := rfl
@[simp] theorem publishBuffer_wdtCnt (s : State) : (publishBuffer s).wdtCnt = s.wdtCnt := rfl
@[simp] theorem publishBuffer_fault (s : State) : (publishBuffer s).fault = s.fault := rfl
@[simp] theorem publishBuffer_sup (s : State) : (publishBuffer s).sup = s.sup := rfl
@[simp] theorem publishBuffer_pending (s : State) : (publishBuffer s).pending = s.pending := rfl
@[simp] theorem publishBuffer_outs (s : State) : (publishBuffer s).outs = s.outs := rfl
@[simp] theorem publishBuffer_free (s : State) : (publishBuffer s).free = s.free := rfl

/-! ### emit -/

@[simp] theorem emit_cfg (e : PinEvent) (s : State) : (emit s e).cfg = s.cfg := rfl
@[simp] theorem emit_reg (e : PinEvent) (s : State) : (emit s e).reg = s.reg := rfl
@[simp] theorem emit_tl (e : PinEvent) (s : State) : (emit s e).tl = s.tl := rfl
@[simp] theorem emit_pb (e : PinEvent) (s : State) : (emit s e).pb = s.pb := rfl
@[simp] theorem emit_rb (e : PinEvent) (s : State) : (emit s e).rb = s.rb := rfl
@[simp] theorem emit_srow (e : PinEvent) (s : State) : (emit s e).srow = s.srow := rfl
@[simp] theorem emit_pins (e : PinEvent) (s : State) : (emit s e).pins = s.pins.drive e := rfl
@[simp] theorem emit_pt (e : PinEvent) (s : State) : (emit s e).pt = s.pt ++ [.item e] := rfl
@[simp] theorem emit_panel (e : PinEvent) (s : State) : (emit s e).panel = s.panel.sample s.cfg.shiftLen s.pins e := rfl
@[simp] theorem emit_buf (e : PinEvent) (s : State) : (emit s e).buf = s.buf := rfl
@[simp] theorem emit_conn (e : PinEvent) (s : State) : (emit s e).conn = s.conn := rfl
@[simp] theorem emit_rt (e : PinEvent) (s : State) : (emit s e).rt = s.rt := rfl
@[simp] theorem emit_nq (e : PinEvent) (s : State) : (emit s e).nq = s.nq := rfl
@[simp] theorem emit_ln (e : PinEvent) (s : State) : (emit s e).ln = s.ln := rfl
@[simp] theorem emit_lt (e : PinEvent) (s : State) : (emit s e).lt = s.lt := rfl
@[simp] theorem emit_now (e : PinEvent) (s : State) : (emit s e).now = s.now := rfl
@[simp] theorem emit_wdtRun (e : PinEvent) (s : State) : (emit s e).wdtRun = s.wdtRun := rfl
@[simp] theorem emit_wdtCnt (e : PinEvent) (s : State) : (emit s e).wdtCnt = s.wdtCnt := rfl
@[simp] theorem emit_fault (e : PinEvent) (s : State) : (emit s e).fault = s.fault := rfl
@[simp] theorem emit_sup (e : PinEvent) (s : State) : (emit s e).sup = s.sup := rfl
@[simp] theorem emit_pending (e : PinEvent) (s : State) : (emit s e).pending = s.pending := rfl
@[simp] theorem emit_outs (e : PinEvent) (s : State) : (emit s e).outs = s.outs := rfl
@[simp] theorem emit_free (e : PinEvent) (s : State) : (emit s e).free = s.free := rfl

/-! ### blockReset -/

@[simp] theorem blockReset_cfg (s : State) : (blockReset s).cfg = s.cfg := rfl
@[simp] theorem blockReset_reg (s : State) : (blockReset s).reg = State.resetTable s.cfg.resetFill := rfl
@[simp] theorem blockReset_tl (s : State) : (blockReset s).tl = ⟨false, 0, 0⟩ := rfl
@[simp] theorem blockReset_pb (s : State) : (blockReset s).pb = Bitmap.blank s.cfg.width := rfl
@[simp] theorem blockReset_rb (s : State) : (blockReset s).rb = freeBitmap s.cfg.width s.free := rfl
@[simp] theorem blockReset_srow (s : State) : (blockReset s).srow = 0 := rfl
@[simp] theorem blockReset_pins (s : State) : (blockReset s).pins = ⟨false, 0, false, false, false⟩ := rfl
@[simp] theorem blockReset_pt (s : State) : (blockReset s).pt = s.pt ++ [.reset] := rfl
@[simp] theorem blockReset_panel (s : State) : (blockReset s).panel = ⟨List.replicate s.cfg.shiftLen false, List.replicate s.cfg.shiftLen false⟩ := rfl
@[simp] theorem blockReset_buf (s : State) : (blockReset s).buf = [] := rfl
@[simp] theorem blockReset_conn (s : State) : (blockReset s).conn = .closed := rfl
@[simp] theorem blockReset_rt (s : State) : (blockReset s).rt = s.rt ++ [.reset] := rfl
@[simp] theorem blockReset_nq (s : State) : (blockReset s).nq = [] := rfl
@[simp] theorem blockReset_ln (s : State) : (blockReset s).ln = s.ln ++ [.reset] := rfl
@[simp] theorem blockReset_lt (s : State) : (blockReset s).lt = ⟨s.now, s.now, s.now, s.now⟩ := rfl
@[simp] theorem blockReset_now (s : State) : (blockReset s).now = s.now := rfl
@[simp] theorem blockReset_wdtRun (s : State) : (blockReset s).wdtRun = false := rfl
@[simp] theorem blockReset_wdtCnt (s : State) : (blockReset s).wdtCnt = Config.freeCount s.free := rfl
@[simp] theorem blockReset_fault (s : State) : (blockReset s).fault = none := rfl
@[simp] theorem blockReset_sup (s : State) : (blockReset s).sup = none := rfl
@[simp] theorem blockReset_pending (s : State) : (blockReset s).pending = s.pending := rfl
@[simp] theorem blockReset_outs (s : State) : (blockReset s).outs = s.outs := rfl
@[simp] theorem blockReset_free (s : State) : (blockReset s).free = s.free + 1 := rfl

/-! ### storeAndEval, afterWrite -/

@[simp] theorem storeAndEval_cfg (a : Nat) (vs : List U16) (s : State) : (storeAndEval a vs s).cfg = s.cfg := by
  unfold storeAndEval; dsimp only; split <;> rfl
@[simp] theorem storeAndEval_reg (a : Nat) (vs : List U16) (s : State) : (storeAndEval a vs s).reg = storeRegs s.reg a vs := by
  unfold storeAndEval; dsimp only; split <;> rfl
@[simp] theorem storeAndEval_pb (a : Nat) (vs : List U16) (s : State) : (storeAndEval a vs s).pb = s.pb := by
  unfold storeAndEval; dsimp only; split <;> rfl
@[simp] theorem storeAndEval_rb (a : Nat) (vs : List U16) (s : State) : (storeAndEval a vs s).rb = s.rb := by
  unfold storeAndEval; dsimp only; split <;> rfl
@[simp] theorem storeAndEval_srow (a : Nat) (vs : List U16) (s : State) : (storeAndEval a vs s).srow = s.srow := by
  unfold storeAndEval; dsimp only; split <;> rfl
@[simp] theorem storeAndEval_pins (a : Nat) (vs : List U16) (s : State) : (storeAndEval a vs s).pins = s.pins := by
  unfold storeAndEval; dsimp only; split <;> rfl
@[simp] theorem storeAndEval_pt (a : Nat) (vs : List U16) (s : State) : (storeAndEval a vs s).pt = s.pt := by
  unfold storeAndEval; dsimp only; split <;> rfl
@[simp] theorem storeAndEval_panel (a : Nat) (vs : List U16) (s : State) : (storeAndEval a vs s).panel = s.panel := by
  unfold storeAndEval; dsimp only; split <;> rfl
@[simp] theorem storeAndEval_buf (a : Nat) (vs : List U16) (s : State) : (storeAndEval a vs s).buf = s.buf := by
  unfold storeAndEval; dsimp only; split <;> rfl
@[simp] theorem storeAndEval_conn (a : Nat) (vs : List U16) (s : State) : (storeAndEval a vs s).conn = s.conn := by
  unfold storeAndEval; dsimp only; split <;> rfl
@[simp] theorem storeAndEval_rt (a : Nat) (vs : List U16) (s : State) : (storeAndEval a vs s).rt = s.rt := by
  unfold storeAndEval; dsimp only; split <;> rfl
@[simp] theorem storeAndEval_nq (a : Nat) (vs : List U16) (s : State) : (storeAndEval a vs s).nq = s.nq := by
  unfold storeAndEval; dsimp only; split <;> rfl
@[simp] theorem storeAndEval_ln (a : Nat) (vs : List U16) (s : State) : (storeAndEval a vs s).ln = s.ln := by
  unfold storeAndEval; dsimp only; split <;> rfl
@[simp] theorem storeAndEval_lt (a : Nat) (vs : List U16) (s : State) : (storeAndEval a vs s).lt = s.lt := by
  unfold storeAndEval; dsimp only; split <;> rfl
@[simp] theorem storeAndEval_now (a : Nat) (vs : List U16) (s : State) : (storeAndEval a vs s).now = s.now := by
  unfold storeAndEval; dsimp only; split <;> rfl
@[simp] theorem storeAndEval_wdtRun (a : Nat) (vs : List U16) (s : State) : (storeAndEval a vs s).wdtRun = s.wdtRun := by
  unfold storeAndEval; dsimp only; split <;> rfl
@[simp] theorem storeAndEval_wdtCnt (a : Nat) (vs : List U16) (s : State) : (storeAndEval a vs s).wdtCnt = s.wdtCnt := by
  unfold storeAndEval; dsimp only; split <;> rfl
@[simp] theorem storeAndEval_fault (a : Nat) (vs : List U16) (s : State) : (storeAndEval a vs s).fault = s.fault := by
  unfold storeAndEval; dsimp only; split <;> rfl
@[simp] theorem storeAndEval_sup (a : Nat) (vs : List U16) (s : State) : (storeAndEval a vs s).sup = s.sup := by
  unfold storeAndEval; dsimp only; split <;> rfl
@[simp] theorem storeAndEval_pending (a : Nat) (vs : List U16) (s : State) : (storeAndEval a vs s).pending = s.pending := by
  unfold storeAndEval; dsimp only; split <;> rfl
@[simp] theorem storeAndEval_outs (a : Nat) (vs : List U16) (s : State) : (storeAndEval a vs s).outs = s.outs := by
  unfold storeAndEval; dsimp only; split <;> rfl
@[simp] theorem storeAndEval_free (a : Nat) (vs : List U16) (s : State) : (storeAndEval a vs s).free = s.free := by
  unfold storeAndEval; dsimp only; split <;> rfl
@[simp] theorem afterWrite_cfg (s : State) : (afterWrite s).cfg = s.cfg := by
  unfold afterWrite; split <;> rfl
@[simp] theorem afterWrite_reg (s : State) : (afterWrite s).reg = s.reg := by
  unfold afterWrite; split <;> rfl
@[simp] theorem afterWrite_pb (s : State) : (afterWrite s).pb = s.pb := by
  unfold afterWrite; split <;> rfl
@[simp] theorem afterWrite_rb (s : State) : (afterWrite s).rb = s.rb := by
  unfold afterWrite; split <;> rfl
@[simp] theorem afterWrite_srow (s : State) : (afterWrite s).srow = s.srow := by
  unfold afterWrite; split <;> rfl
@[simp] theorem afterWrite_pins (s : State) : (afterWrite s).pins = s.pins := by
  unfold afterWrite; split <;> rfl
@[simp] theorem afterWrite_pt (s : State) : (afterWrite s).pt = s.pt := by
  unfold afterWrite; split <;> rfl
@[simp] theorem afterWrite_panel (s : State) : (afterWrite s).panel = s.panel := by
  unfold afterWrite; split <;> rfl
@[simp] theorem afterWrite_buf (s : State) : (afterWrite s).buf = s.buf := by
  unfold afterWrite; split <;> rfl
@[simp] theorem afterWrite_conn (s : State) : (afterWrite s).conn = s.conn := by
  unfold afterWrite; split <;> rfl
@[simp] theorem afterWrite_rt (s : State) : (afterWrite s).rt = s.rt := by
  unfold afterWrite; split <;> rfl
@[simp] theorem afterWrite_lt (s : State) : (afterWrite s).lt = s.lt := by
  unfold afterWrite; split <;> rfl
@[simp] theorem afterWrite_now (s : State) : (afterWrite s).now = s.now := by
  unfold afterWrite; split <;> rfl
@[simp] theorem afterWrite_wdtRun (s : State) : (afterWrite s).wdtRun = s.wdtRun := by
  unfold afterWrite; split <;> rfl
@[simp] theorem afterWrite_wdtCnt (s : State) : (afterWrite s).wdtCnt = s.wdtCnt := by
  unfold afterWrite; split <;> rfl
@[simp] theorem afterWrite_fault (s : State) : (afterWrite s).fault = s.fault := by
  unfold afterWrite; split <;> rfl
@[simp] theorem afterWrite_sup (s : State) : (afterWrite s).sup = s.sup := by
  unfold afterWrite; split <;> rfl
@[simp] theorem afterWrite_pending (s : State) : (afterWrite s).pending = s.pending := by
  unfold afterWrite; split <;> rfl
@[simp] theorem afterWrite_outs (s : State) : (afterWrite s).outs = s.outs := by
  unfold afterWrite; split <;> rfl
@[simp] theorem afterWrite_free (s : State) : (afterWrite s).free = s.free := by
  unfold afterWrite; split <;> rfl

/-! ### emitAll -/

@[simp] theorem emitAll_nil (s : State) : emitAll s [] = s := rfl
@[simp] theorem emitAll_cons (s : State) (e : PinEvent) (es : List PinEvent) :
    emitAll s (e :: es) = emitAll (emit s e) es := rfl
theorem emitAll_append (s : State) (as bs : List PinEvent) :
    emitAll s (as ++ bs) = emitAll (emitAll s as) bs := List.foldl_append
@[simp] theorem emitAll_pt (s : State) (es : List PinEvent) :
    (emitAll s es).pt = s.pt ++ es.map .item := by
  induction es generalizing s with
  | nil => simp
  | cons e es ih => simp [ih]
@[simp] theorem emitAll_cfg (s : State) (es : List PinEvent) : (emitAll s es).cfg = s.cfg := by
  induction es generalizing s with
  | nil => rfl
  | cons e es ih => simp [ih]
@[simp] theorem emitAll_reg (s : State) (es : List PinEvent) : (emitAll s es).reg = s.reg := by
  induction es generalizing s with
  | nil => rfl
  | cons e es ih => simp [ih]
@[simp] theorem emitAll_tl (s : State) (es : List PinEvent) : (emitAll s es).tl = s.tl := by
  induction es generalizing s with
  | nil => rfl
  | cons e es ih => simp [ih]
@[simp] theorem emitAll_pb (s : State) (es : List PinEvent) : (emitAll s es).pb = s.pb := by
  induction es generalizing s with
  | nil => rfl
  | cons e es ih => simp [ih]
@[simp] theorem emitAll_rb (s : State) (es : List PinEvent) : (emitAll s es).rb = s.rb := by
  induction es generalizing s with
  | nil => rfl
  | cons e es ih => simp [ih]
@[simp] theorem emitAll_srow (s : State) (es : List PinEvent) : (emitAll s es).srow = s.srow := by
  induction es generalizing s with
  | nil => rfl
  | cons e es ih => simp [ih]
@[simp] theorem emitAll_buf (s : State) (es : List PinEvent) : (emitAll s es).buf = s.buf := by
  induction es generalizing s with
  | nil => rfl
  | cons e es ih => simp [ih]
@[simp] theorem emitAll_conn (s : State) (es : List PinEvent) : (emitAll s es).conn = s.conn := by
  induction es generalizing s with
  | nil => rfl
  | cons e es ih => simp [ih]
@[simp] theorem emitAll_rt (s : State) (es : List PinEvent) : (emitAll s es).rt = s.rt := by
  induction es generalizing s with
  | nil => rfl
  | cons e es ih => simp [ih]
@[simp] theorem emitAll_nq (s : State) (es : List PinEvent) : (emitAll s es).nq = s.nq := by
  induction es generalizing s with
  | nil => rfl
  | cons e es ih => simp [ih]
@[simp] theorem emitAll_ln (s : State) (es : List PinEvent) : (emitAll s es).ln = s.ln := by
  induction es generalizing s with
  | nil => rfl
  | cons e es ih => simp [ih]
@[simp] theorem emitAll_lt (s : State) (es : List PinEvent) : (emitAll s es).lt = s.lt := by
  induction es generalizing s with
  | nil => rfl
  | cons e es ih => simp [ih]
@[simp] theorem emitAll_now (s : State) (es : List PinEvent) : (emitAll s es).now = s.now := by
  induction es generalizing s with
  | nil => rfl
  | cons e es ih => simp [ih]
@[simp] theorem emitAll_wdtRun (s : State) (es : List PinEvent) : (emitAll s es).wdtRun = s.wdtRun := by
  induction es generalizing s with
  | nil => rfl
  | cons e es ih => simp [ih]
@[simp] theorem emitAll_wdtCnt (s : State) (es : List PinEvent) : (emitAll s es).wdtCnt = s.wdtCnt := by
  induction es generalizing s with
  | nil => rfl
  | cons e es ih => simp [ih]
@[simp] theorem emitAll_fault (s : State) (es : List PinEvent) : (emitAll s es).fault = s.fault := by
  induction es generalizing s with
  | nil => rfl
  | cons e es ih => simp [ih]
@[simp] theorem emitAll_sup (s : State) (es : List PinEvent) : (emitAll s es).sup = s.sup := by
  induction es generalizing s with
  | nil => rfl
  | cons e es ih => simp [ih]
@[simp] theorem emitAll_pending (s : State) (es : List PinEvent) : (emitAll s es).pending = s.pending := by
  induction es generalizing s with
  | nil => rfl
  | cons e es ih => simp [ih]
@[simp] theorem emitAll_outs (s : State) (es : List PinEvent) : (emitAll s es).outs = s.outs := by
  induction es generalizing s with
  | nil => rfl
  | cons e es ih => simp [ih]
@[simp] theorem emitAll_free (s : State) (es : List PinEvent) : (emitAll s es).free = s.free := by
  induction es generalizing s with
  | nil => rfl
  | cons e es ih => simp [ih]

/-! ### The liveness table -/

@[simp] theorem Liveness.get_put_self (l : Liveness) (t : Nat) (i : Slot) : (l.put t i).get i = t := by
  cases i <;> rfl

theorem Liveness.get_put_of_ne (l : Liveness) (t : Nat) {i j : Slot} (h : j ≠ i) : (l.put t i).get j = l.get j := by
  cases i <;> cases j <;> first | rfl | exact absurd rfl h

end Sys2Proof.Machine
end

