-- ==== Sys2Proof/Laws/Display.lean ====
section
/-! SUPPORT. What the drawing operations do to a bitmap, once each (42_display_render.md R130 to R133). -/

namespace Sys2Proof.Machine

theorem blank_shaped (w : Nat) : Shaped w (Bitmap.blank w) := by
  intro row hrow
  simp only [Bitmap.blank, Vector.mem_toList_iff, Vector.mem_replicate] at hrow
  rw [hrow.2, List.length_replicate]

@[simp] theorem bitmapGet_blank (w y x : Nat) : bitmapGet (Bitmap.blank w) y x = false := by
  unfold bitmapGet Bitmap.blank
  by_cases hy : y < 16
  · simp only [Vector.getElem?_eq_getElem hy, Vector.getElem_replicate, Option.getD_some, List.getD_eq_getElem?_getD,
      List.getElem?_replicate]
    split <;> rfl
  · rw [Vector.getElem?_eq_none (by omega)]; rfl

theorem freeBitmap_shaped (w n : Nat) : Shaped w (freeBitmap w n) := by
  intro row hrow
  simp only [freeBitmap, Vector.mem_toList_iff] at hrow
  obtain ⟨i, hi, rfl⟩ := Vector.getElem_of_mem hrow
  simp

/-- Rows of a shaped bitmap have its width. -/
theorem Shaped.row_length {w : Nat} {b : Bitmap} (h : Shaped w b) {y : Nat} (hy : y < 16) :
    (b.rows[y]).length = w := h _ (by simp)

theorem bitmapLight_shaped {w : Nat} {b : Bitmap} (h : Shaped w b) (y x : Nat) : Shaped w (bitmapLight b y x) := by
  intro row hrow
  obtain ⟨i, hi, rfl⟩ := Vector.getElem_of_mem (Vector.mem_toList_iff.mp hrow)
  simp only [bitmapLight, Vector.getElem_setIfInBounds]
  split
  · next hyi => subst hyi; simp only [Vector.getElem?_eq_getElem hi, Option.getD_some, List.length_set]; exact h.row_length hi
  · exact h.row_length hi

/-- Lighting a pixel of the bitmap lights it and no other. -/
theorem bitmapGet_light {w : Nat} {b : Bitmap} (h : Shaped w b) {y x : Nat} (hy : y < 16) (hx : x < w)
    (y' x' : Nat) (hy' : y' < 16) (hx' : x' < w) :
    bitmapGet (bitmapLight b y x) y' x' = true ↔ bitmapGet b y' x' = true ∨ (y' = y ∧ x' = x) := by
  have hl := h.row_length hy
  unfold bitmapGet bitmapLight
  simp only [Vector.getElem?_setIfInBounds]
  by_cases hyy : y = y'
  · subst hyy
    simp only [Vector.getElem?_eq_getElem hy, if_pos hy, Option.getD_some, List.getD_eq_getElem?_getD]
    by_cases hxx : x = x'
    · subst hxx; simp [hl, hx]
    · simp [hxx, Ne.symm hxx]
  · simp [hyy, Ne.symm hyy]

/-- Drawing many things, each lighting its own pixels, lights the pixels of all. -/
theorem foldl_draw {ι : Type} {w : Nat} (f : Bitmap → ι → Bitmap) (P : ι → Prop) (y x : Nat) (is : List ι)
    (hf : ∀ b i, i ∈ is → Shaped w b →
      Shaped w (f b i) ∧ (bitmapGet (f b i) y x = true ↔ bitmapGet b y x = true ∨ P i)) :
    ∀ b, Shaped w b → Shaped w (is.foldl f b) ∧
      (bitmapGet (is.foldl f b) y x = true ↔ bitmapGet b y x = true ∨ ∃ i ∈ is, P i) := by
  induction is with
  | nil => intro b hb; exact ⟨hb, by simp⟩
  | cons i is ih =>
    intro b hb
    obtain ⟨h1, h2⟩ := hf b i (by simp) hb
    obtain ⟨h3, h4⟩ := ih (fun b j hj => hf b j (by simp [hj])) (f b i) h1
    refine ⟨h3, ?_⟩
    rw [List.foldl_cons, h4, h2]
    simp only [List.mem_cons, exists_eq_or_imp, or_assoc]

theorem drawPixel_get (cfg : Config) (d : Nat) (x0 y0 : Int) (r c y x : Nat) (b : Bitmap) (hb : Shaped cfg.width b)
    (hy : y < 16) (hx : x < cfg.width) :
    Shaped cfg.width (drawPixel cfg d x0 y0 r c b) ∧
    (bitmapGet (drawPixel cfg d x0 y0 r c b) y x = true ↔
      bitmapGet b y x = true ∨ (glyphLit cfg d r c = true ∧ (y : Int) = y0 + r ∧ (x : Int) = x0 + c)) := by
  unfold drawPixel
  split
  · next hp =>
    obtain ⟨hlit, h1, h2, h3, h4⟩ := hp
    refine ⟨bitmapLight_shaped hb _ _, ?_⟩
    rw [bitmapGet_light hb (by omega) (by omega) y x hy hx]
    simp only [hlit, true_and]
    refine or_congr_right ?_
    omega
  · next hp =>
    refine ⟨hb, (or_iff_left ?_).symm⟩
    rintro ⟨hlit, h1, h2⟩
    exact hp ⟨hlit, by omega, by omega, by omega, by omega⟩

/-- DrawGlyph lights the lit pixels of the glyph that fall inside the bitmap, and no other (42_display_render.md
R132). -/
theorem drawGlyph_get (cfg : Config) (d : Nat) (x0 y0 : Int) (y x : Nat) (b : Bitmap) (hb : Shaped cfg.width b)
    (hy : y < 16) (hx : x < cfg.width) :
    Shaped cfg.width (drawGlyph cfg d x0 y0 b) ∧
    (bitmapGet (drawGlyph cfg d x0 y0 b) y x = true ↔ bitmapGet b y x = true ∨
      ∃ r < 7, ∃ c < 5, glyphLit cfg d r c = true ∧ (y : Int) = y0 + r ∧ (x : Int) = x0 + c) := by
  have := foldl_draw (w := cfg.width)
    (fun b r => (List.range 5).foldl (fun b c => drawPixel cfg d x0 y0 r c b) b)
    (fun r => ∃ c ∈ List.range 5, glyphLit cfg d r c = true ∧ (y : Int) = y0 + r ∧ (x : Int) = x0 + c) y x
    (List.range 7) (fun b r _ hb => foldl_draw (fun b c => drawPixel cfg d x0 y0 r c b) _ y x (List.range 5)
      (fun b c _ hb => drawPixel_get cfg d x0 y0 r c y x b hb hy hx) b hb) b hb
  simp only [List.mem_range] at this
  exact this

theorem foldl_shaped {ι : Type} {w : Nat} (f : Bitmap → ι → Bitmap) (is : List ι)
    (hf : ∀ b i, Shaped w b → Shaped w (f b i)) : ∀ b, Shaped w b → Shaped w (is.foldl f b) := by
  induction is with
  | nil => exact fun _ hb => hb
  | cons i is ih => exact fun b hb => ih _ (hf b i hb)

theorem drawGlyph_shaped {w : Nat} (cfg : Config) (d : Nat) (x0 y0 : Int) {b : Bitmap} (hb : Shaped w b) :
    Shaped w (drawGlyph cfg d x0 y0 b) := by
  refine foldl_shaped _ _ (fun b r hb => foldl_shaped _ _ (fun b c hb => ?_) b hb) b hb
  unfold drawPixel
  split
  · exact bitmapLight_shaped hb _ _
  · exact hb

theorem renderBitmap_shaped (cfg : Config) (m sec : U16) : Shaped cfg.width (renderBitmap cfg m sec) :=
  drawGlyph_shaped _ _ _ _ <| drawGlyph_shaped _ _ _ _ <| drawGlyph_shaped _ _ _ _ <| drawGlyph_shaped _ _ _ _ <|
    drawGlyph_shaped _ _ _ _ (blank_shaped _)

/-- A lit glyph pixel, with the glyph and its row named (42_display_render.md R130). -/
theorem glyphLit_iff (cfg : Config) (d r c : Nat) : glyphLit cfg d r c = true ↔
    ∃ (glyph : Vector (BitVec 5) 7) (row : BitVec 5),
      cfg.glyph[d]? = some glyph ∧ glyph[r]? = some row ∧ row.getLsbD (4 - c) = true := by
  unfold glyphLit
  cases hg : cfg.glyph[d]? with
  | none => simp
  | some g => cases hr : g[r]? <;> simp [hr]

theorem glyphCovers_iff (cfg : Config) (d : Nat) (x0 : Int) (y x : Nat) : GlyphCovers cfg d x0 y x ↔
    ∃ r < 7, ∃ c < 5, glyphLit cfg d r c = true ∧ (y : Int) = cfg.yOff + r ∧ (x : Int) = x0 + c := by
  simp only [GlyphCovers, glyphLit_iff]
  constructor
  · rintro ⟨r, c, hr, hc, h1, h2, h3⟩; exact ⟨r, hr, c, hc, h3, h1, h2⟩
  · rintro ⟨r, hr, c, hc, h3, h1, h2⟩; exact ⟨r, c, hr, hc, h1, h2, h3⟩

end Sys2Proof.Machine
end

