-- ==== Sys2Proof/Laws/Encoding.lean ====
section
/-! SUPPORT. What the field, frame and operand codecs do, once each (00_scope.md R12; 30_encoding.md R66 to R73). -/

namespace Sys2Proof

/-! ## Fields -/

theorem be16_toNat (b0 b1 : Byte) : (be16 b0 b1).toNat = b0.toNat * 256 + b1.toNat := by
  have h0 := b0.isLt
  have h1 := b1.isLt
  unfold be16
  rw [BitVec.toNat_append, Nat.shiftLeft_eq, Nat.or_comm]
  rw [show b0.toNat * 2 ^ 8 = 2 ^ 8 * b0.toNat from Nat.mul_comm _ _]
  rw [Nat.or_comm, ← Nat.two_pow_add_eq_or_of_lt h1]
  omega

theorem bytes16_toNat (v : U16) :
    ∃ b0 b1 : Byte, bytes16 v = [b0, b1] ∧ b0.toNat = v.toNat / 256 ∧ b1.toNat = v.toNat % 256 := by
  refine ⟨_, _, rfl, ?_, ?_⟩
  · rw [BitVec.extractLsb'_toNat, Nat.shiftRight_eq_div_pow]; have := v.isLt; omega
  · simp [BitVec.extractLsb'_toNat]

@[simp] theorem bytes16_length (v : U16) : (bytes16 v).length = 2 := rfl

/-- Writing a value's bytes and reading them back gives the value. -/
theorem be16_bytes16 (v : U16) : be16 (v.extractLsb' 8 8) (v.extractLsb' 0 8) = v := by
  apply BitVec.eq_of_toNat_eq
  have := v.isLt
  rw [be16_toNat, BitVec.extractLsb'_toNat, BitVec.extractLsb'_toNat, Nat.shiftRight_eq_div_pow,
    Nat.shiftRight_eq_div_pow]
  omega

@[simp] theorem wordsOf_flatMap_bytes16 (vs : List U16) : wordsOf (vs.flatMap bytes16) = vs := by
  induction vs with
  | nil => rfl
  | cons v vs ih => simp only [List.flatMap_cons, bytes16, List.cons_append, List.nil_append, wordsOf, be16_bytes16, ih]

/-- Value i of a byte list is made of its bytes 2i and 2i+1. -/
theorem wordsOf_getElem? (bs : List Byte) (i : Nat) (b0 b1 : Byte) (h0 : bs[2 * i]? = some b0)
    (h1 : bs[2 * i + 1]? = some b1) : (wordsOf bs)[i]? = some (be16 b0 b1) := by
  induction i generalizing bs with
  | zero => match bs, h0, h1 with
    | c0 :: c1 :: more, h0, h1 => simp_all [wordsOf]
  | succ i ih => match bs, h0, h1 with
    | [], h0, _ => simp at h0
    | [_], h0, _ => simp [show 2 * (i + 1) = 2 * i + 1 + 1 from by omega] at h0
    | c0 :: c1 :: more, h0, h1 =>
      simp only [wordsOf, List.getElem?_cons_succ]
      exact ih more (by simpa [show 2 * (i + 1) = 2 * i + 1 + 1 from by omega] using h0)
        (by simpa [show 2 * (i + 1) = 2 * i + 1 + 1 from by omega] using h1)

theorem wordsOf_length (bs : List Byte) : (wordsOf bs).length = bs.length / 2 := by
  match bs with
  | [] => rfl
  | [_] => simp [wordsOf]
  | _ :: _ :: more => simp only [wordsOf, List.length_cons, wordsOf_length more]; omega

/-! ## Operands -/

theorem decodeNat_encodeNatFuel (fuel n : Nat) (rest : List Byte) (h : n < 128 ^ (fuel + 1)) :
    decodeNat (encodeNatFuel fuel n ++ rest) = some (n, rest) := by
  induction fuel generalizing n with
  | zero =>
    have hn : n < 128 := by simpa using h
    simp only [encodeNatFuel, List.cons_append, List.nil_append, decodeNat, BitVec.toNat_ofNat]
    rw [if_pos (by omega)]
    simp only [Option.some.injEq, Prod.mk.injEq, and_true]
    omega
  | succ fuel ih =>
    unfold encodeNatFuel
    split
    · next hn => simp only [List.cons_append, List.nil_append, decodeNat, BitVec.toNat_ofNat]
                 rw [if_pos (by omega)]; simp; omega
    · next hn =>
      have hlt : n / 128 < 128 ^ (fuel + 1) := by
        rw [Nat.pow_succ] at h; exact Nat.div_lt_of_lt_mul (by rw [Nat.mul_comm]; exact h)
      simp only [List.cons_append, decodeNat, BitVec.toNat_ofNat, ih _ hlt]
      rw [if_neg (by omega)]
      simp only [Option.some.injEq, Prod.mk.injEq, and_true]
      omega

/-- A Nat operand is read back, whatever follows it. -/
theorem decodeNat_encodeNat (n : Nat) (rest : List Byte) : decodeNat (encodeNat n ++ rest) = some (n, rest) := by
  apply decodeNat_encodeNatFuel
  calc n < 2 ^ (n.log2 + 1) := Nat.lt_log2_self
    _ ≤ 128 ^ (n.log2 + 1) := Nat.pow_le_pow_left (by omega) _

theorem encodeNat_ne_nil (n : Nat) : encodeNat n ≠ [] := by
  unfold encodeNat
  cases n.log2 <;> simp only [encodeNatFuel] <;> (try split) <;> simp

theorem decodeU16_bytes16 (v : U16) (rest : List Byte) : decodeU16 (bytes16 v ++ rest) = some (v, rest) := by
  simp [bytes16, decodeU16, be16_bytes16]

theorem decodeSlot_encodeSlot (s : Slot) : decodeSlot (encodeSlot s) = some s := by cases s <;> rfl

/-! ## Frames -/

/-- A whole legal frame at the front of the buffer is detected, with the bytes after it (41_host_commands.md R108,
R109). -/
theorem detectFrame_frameBytes (h : FrameHead) (fc : Byte) (args rest : List Byte) (hlen : args.length ≤ 251) :
    detectFrame (frameBytes h (fc :: args) ++ rest) = .frame h fc args rest := by
  have hl : (be16 ((BitVec.ofNat 16 (1 + (fc :: args).length)).extractLsb' 8 8)
      ((BitVec.ofNat 16 (1 + (fc :: args).length)).extractLsb' 0 8)).toNat = args.length + 2 := by
    rw [be16_bytes16, BitVec.toNat_ofNat, List.length_cons]; omega
  simp only [frameBytes, bytes16, List.cons_append, List.nil_append, detectFrame]
  rw [hl, be16_bytes16]
  rw [if_neg (by rw [show be16 (0 : Byte) 0 = 0 from by decide]; simp; omega)]
  rw [if_neg (by simp)]
  simp

theorem detectFrame_nil : detectFrame [] = .wait := rfl

/-- A detected frame, header and body, and the bytes after it are the buffer. -/
theorem detectFrame_eq_frame {buf : List Byte} {h : FrameHead} {fc : Byte} {args rest : List Byte}
    (hd : detectFrame buf = .frame h fc args rest) :
    buf = frameBytes h (fc :: args) ++ rest ∧ args.length ≤ 251 := by
  match buf with
  | t0 :: t1 :: p0 :: p1 :: l0 :: l1 :: uid :: body =>
    simp only [detectFrame] at hd
    split at hd
    · simp at hd
    · next hok =>
      split at hd
      · simp at hd
      · next fc' more =>
        split at hd
        · simp at hd
        · next hm =>
          simp only [Detected.frame.injEq] at hd
          obtain ⟨rfl, rfl, rfl, rfl⟩ := hd
          rw [not_or, not_or] at hok
          obtain ⟨hp, h2, h253⟩ := hok
          have hbe := be16_toNat l0 l1
          have htl : (more.take ((be16 l0 l1).toNat - 2)).length = (be16 l0 l1).toNat - 2 := by
            rw [List.length_take]; omega
          refine ⟨?_, by omega⟩
          have hL : BitVec.ofNat 16 (1 + (fc' :: more.take ((be16 l0 l1).toNat - 2)).length) = be16 l0 l1 := by
            apply BitVec.eq_of_toNat_eq
            rw [List.length_cons, htl, BitVec.toNat_ofNat]; omega
          have hb (x y : Byte) : bytes16 (be16 x y) = [x, y] := by
            have hx := be16_toNat x y
            have := x.isLt; have := y.isLt
            unfold bytes16
            congr 1
            · apply BitVec.eq_of_toNat_eq; rw [BitVec.extractLsb'_toNat, Nat.shiftRight_eq_div_pow]; omega
            · congr 1; apply BitVec.eq_of_toNat_eq; rw [BitVec.extractLsb'_toNat, Nat.shiftRight_eq_div_pow]; omega
          have hp0 : p0 = 0 ∧ p1 = 0 := by
            have hz := be16_toNat p0 p1
            have : be16 p0 p1 = 0 := by simpa using hp
            rw [this] at hz
            have hz' : p0.toNat * 256 + p1.toNat = 0 := by simpa using hz.symm
            exact ⟨BitVec.eq_of_toNat_eq (by simp; omega), BitVec.eq_of_toNat_eq (by simp; omega)⟩
          simp only [frameBytes, hL, hb, hp0.1, hp0.2, List.cons_append, List.nil_append, List.take_append_drop]
  | [] | [_] | [_, _] | [_, _, _] | [_, _, _, _] | [_, _, _, _, _] | [_, _, _, _, _, _] => simp [detectFrame] at hd

theorem frameBytes_length (h : FrameHead) (pdu : List Byte) : (frameBytes h pdu).length = 7 + pdu.length := by
  simp [frameBytes]; omega

/-- Bytes added behind a detected frame only follow it. -/
theorem detectFrame_append {buf : List Byte} {h : FrameHead} {fc : Byte} {args rest : List Byte} (more : List Byte)
    (hd : detectFrame buf = .frame h fc args rest) :
    detectFrame (buf ++ more) = .frame h fc args (rest ++ more) := by
  obtain ⟨rfl, hl⟩ := detectFrame_eq_frame hd
  rw [List.append_assoc, detectFrame_frameBytes h fc args _ hl]

/-- Nothing is decided before the header's 7 bytes (41_host_commands.md R108). -/
theorem detectFrame_short (buf : List Byte) (h : buf.length < 7) : detectFrame buf = .wait := by
  match buf with
  | _ :: _ :: _ :: _ :: _ :: _ :: _ :: _ => simp at h; omega
  | [] | [_] | [_, _] | [_, _, _] | [_, _, _, _] | [_, _, _, _, _] | [_, _, _, _, _, _] => rfl

/-- A frame of at most 255 bytes after its LEN field has the high byte of LEN 0 (30_encoding.md R66, R67). -/
theorem frameBytes_short (h : FrameHead) (pdu : List Byte) (hl : pdu.length ≤ 254) :
    frameBytes h pdu = bytes16 h.tid ++ ([0, 0, 0, BitVec.ofNat 8 (1 + pdu.length), h.uid] ++ pdu) := by
  have hb : bytes16 (BitVec.ofNat 16 (1 + pdu.length)) = [0, BitVec.ofNat 8 (1 + pdu.length)] := by
    unfold bytes16
    congr 1
    · apply BitVec.eq_of_toNat_eq
      rw [BitVec.extractLsb'_toNat, Nat.shiftRight_eq_div_pow, BitVec.toNat_ofNat]; simp; omega
    · congr 1; apply BitVec.eq_of_toNat_eq
      rw [BitVec.extractLsb'_toNat, Nat.shiftRight_eq_div_pow, BitVec.toNat_ofNat, BitVec.toNat_ofNat]; simp
  simp [frameBytes, hb]

/-- A whole legal frame handed over is its command (41_host_commands.md R110). -/
theorem decodeRequest_frameBytes (h : FrameHead) (fc : Byte) (args : List Byte) (hl : args.length ≤ 251) :
    decodeRequest (.frame (frameBytes h (fc :: args))) = .ok ((decodePdu fc args).instr h) := by
  have := detectFrame_frameBytes h fc args [] hl
  rw [List.append_nil] at this
  simp [decodeRequest, this]

end Sys2Proof
end

