-- ==== Sys2Proof/Laws/Store.lean ====
section
/-! SUPPORT. What the register store and the latch do, once each (40_register_file.md R94 to R100). -/

namespace Sys2Proof.Machine

theorem State.regAt_eq (s : State) (a : Nat) (h : a < 32) : s.regAt a = s.reg[a] := by
  simp [State.regAt, h]

theorem State.regsAt_length (s : State) (a q : Nat) : (s.regsAt a q).length = q := by simp [State.regsAt]

theorem State.regsAt_getElem? (s : State) (a q i : Nat) (hi : i < q) (h : a + q ≤ 32) :
    (s.regsAt a q)[i]? = s.reg[a + i]? := by
  have : a + i < 32 := by omega
  simp [State.regsAt, hi, State.regAt, this]

/-- A block write sets the registers of its range and no other (R98). -/
theorem storeRegs_getElem? (r : Vector U16 32) (a : Nat) (vs : List U16) (i : Nat) (hi : i < 32) :
    (storeRegs r a vs)[i]? = if a ≤ i ∧ i < a + vs.length then vs[i - a]? else r[i]? := by
  induction vs generalizing r a with
  | nil => simp only [storeRegs, List.length_nil]; rw [if_neg (by omega)]
  | cons v vs ih =>
    rw [storeRegs, ih, List.length_cons, Vector.getElem?_setIfInBounds]
    by_cases h : a + 1 ≤ i ∧ i < a + 1 + vs.length
    · rw [if_pos h, if_pos (by omega)]
      rw [show i - a = (i - (a + 1)) + 1 from by omega, List.getElem?_cons_succ]
    · rw [if_neg h]
      by_cases ha : a = i
      · subst ha; rw [if_pos rfl, if_pos hi, if_pos (by omega)]; simp
      · rw [if_neg ha, if_neg (by omega)]

theorem storeRegs_single (r : Vector U16 32) (a : Nat) (v : U16) (h : a < 32) : storeRegs r a [v] = r.set a v := by
  apply Vector.ext
  intro i hi
  have := storeRegs_getElem? r a [v] i hi
  rw [Vector.getElem?_eq_getElem hi] at this
  rw [Vector.getElem_set]
  by_cases ha : a = i
  · subst ha; simpa using this
  · rw [if_neg (by simp; omega), Vector.getElem?_eq_getElem hi] at this
    simpa [ha] using this

/-- LatchEval sets the pair to the current time, and marks a change or keeps the mark (R99). -/
theorem TimeLatch.eval_eq (tl : TimeLatch) (m sec : U16) :
    tl.eval m sec = ⟨tl.dirty || decide ((m, sec) ≠ (tl.lastMin, tl.lastSec)), m, sec⟩ := by
  unfold TimeLatch.eval
  split
  · next h => simp [h]
  · next h =>
    have := not_not.mp h
    simp only [Prod.mk.injEq] at this
    obtain ⟨rfl, rfl⟩ := this
    simp

/-- The latch after a write of registers that began at `a` (R97, R98, R99). -/
theorem storeAndEval_tl (a : Nat) (vs : List U16) (s : State) :
    (storeAndEval a vs s).tl =
      if a ≤ 1 then s.tl.eval (storeRegs s.reg a vs)[0] (storeRegs s.reg a vs)[1] else s.tl := by
  unfold storeAndEval
  dsimp only
  split
  · simp [State.regAt_eq]
  · rfl

theorem storeAndEval_eq (a : Nat) (vs : List U16) (s : State) :
    storeAndEval a vs s = { s with
      reg := storeRegs s.reg a vs
      tl := if a ≤ 1 then s.tl.eval (storeRegs s.reg a vs)[0] (storeRegs s.reg a vs)[1] else s.tl } := by
  rw [← storeAndEval_tl]
  unfold storeAndEval
  dsimp only
  split <;> rfl

/-- AfterWrite consumes the latch; what it yields goes to NQ, if there is room, and to LN (41_host_commands.md R116,
R117, R118). -/
theorem afterWrite_eq (s : State) : afterWrite s = { s with
    tl := ⟨false, s.tl.lastMin, s.tl.lastSec⟩
    nq := if s.tl.dirty = true ∧ s.nq.length < s.cfg.nqDepth then s.nq ++ [(s.tl.lastMin, s.tl.lastSec)] else s.nq
    ln := if s.tl.dirty = true then s.ln ++ [.item (s.tl.lastMin, s.tl.lastSec)] else s.ln } := by
  unfold afterWrite changedTime
  cases h : s.tl.dirty
  · simp [clearLatch]
  · by_cases hl : s.nq.length < s.cfg.nqDepth <;> simp [clearLatch, notifyDisplay, notifyLogger, hl]

@[simp] theorem afterWrite_dirty (s : State) : (afterWrite s).tl.dirty = false := by rw [afterWrite_eq]

/-- What the latch holds survives AfterWrite (41_host_commands.md R116). -/
@[simp] theorem afterWrite_last (s : State) :
    (afterWrite s).tl.lastMin = s.tl.lastMin ∧ (afterWrite s).tl.lastSec = s.tl.lastSec := by
  rw [afterWrite_eq]; exact ⟨rfl, rfl⟩

end Sys2Proof.Machine
end

