-- ==== Sys2Proof/Laws/Host.lean ====
section
/-! SUPPORT. What a host command and a received chunk can do, once each (41_host_commands.md): the frame of both, and
that a command's effect does not depend on the buffer, the liveness table or the outcomes already recorded. -/

namespace Sys2Proof.Machine

/-- The latch holds the current time registers (10_state.md R22). -/
def TracksTime (s : State) : Prop := s.tl.lastMin = s.regAt 0 ∧ s.tl.lastSec = s.regAt 1

/-- What every piece of the host command port keeps from state `s` to state `t`. -/
structure HostKeeps (s t : State) : Prop where
  cfg : t.cfg = s.cfg
  pb : t.pb = s.pb
  rb : t.rb = s.rb
  srow : t.srow = s.srow
  pins : t.pins = s.pins
  pt : t.pt = s.pt
  panel : t.panel = s.panel
  conn : t.conn = s.conn
  lt : t.lt = s.lt
  now : t.now = s.now
  wdtRun : t.wdtRun = s.wdtRun
  wdtCnt : t.wdtCnt = s.wdtCnt
  fault : t.fault = s.fault
  pending : t.pending = s.pending
  sup : t.sup = s.sup
  free : t.free = s.free
  /-- Notifications are appended, and not beyond NQ_DEPTH (41_host_commands.md R117). -/
  queue : ∃ new, t.nq = s.nq ++ new ∧ (new ≠ [] → t.nq.length ≤ s.cfg.nqDepth)
  /-- A command leaves a clean latch clean (41_host_commands.md R116). -/
  clean : s.tl.dirty = false → t.tl.dirty = false
  tracks : TracksTime s → TracksTime t
  /-- Only reply frames are appended to RT (41_host_commands.md R115). -/
  replies : ∃ new : List (List Byte), t.rt = s.rt ++ new.map .item

theorem HostKeeps.refl (s : State) : HostKeeps s s := by
  constructor <;> first | rfl | exact id | exact ⟨[], by simp⟩

theorem HostKeeps.trans {s t u : State} (h : HostKeeps s t) (k : HostKeeps t u) : HostKeeps s u where
  cfg := k.cfg.trans h.cfg
  pb := k.pb.trans h.pb
  rb := k.rb.trans h.rb
  srow := k.srow.trans h.srow
  pins := k.pins.trans h.pins
  pt := k.pt.trans h.pt
  panel := k.panel.trans h.panel
  conn := k.conn.trans h.conn
  lt := k.lt.trans h.lt
  now := k.now.trans h.now
  wdtRun := k.wdtRun.trans h.wdtRun
  wdtCnt := k.wdtCnt.trans h.wdtCnt
  fault := k.fault.trans h.fault
  pending := k.pending.trans h.pending
  sup := k.sup.trans h.sup
  free := k.free.trans h.free
  queue := by
    obtain ⟨a, ha, hal⟩ := h.queue
    obtain ⟨b, hb, hbl⟩ := k.queue
    refine ⟨a ++ b, by rw [hb, ha, List.append_assoc], fun hne => ?_⟩
    cases b with
    | nil => rw [hb, List.append_nil]; exact hal (by simpa using hne)
    | cons x xs => rw [h.cfg] at hbl; exact hbl (by simp)
  clean := k.clean ∘ h.clean
  tracks := k.tracks ∘ h.tracks
  replies := by
    obtain ⟨a, ha⟩ := h.replies
    obtain ⟨b, hb⟩ := k.replies
    exact ⟨a ++ b, by rw [hb, ha, List.append_assoc, List.map_append]⟩

theorem sendReply_keeps (h : FrameHead) (rpdu : List Byte) (s : State) : HostKeeps s (sendReply h rpdu s) := by
  constructor <;> first | rfl | exact id | exact ⟨[frameBytes h rpdu], rfl⟩ | exact ⟨[], by simp⟩

theorem push_keeps (o : OpOutcome) (s : State) : HostKeeps s (s.push o) := by
  constructor <;> first | rfl | exact id | exact ⟨[], by simp⟩

theorem begin_keeps (s : State) : HostKeeps s s.begin := by
  constructor <;> first | rfl | exact id | exact ⟨[], by simp⟩

theorem resync_keeps (r : ResyncReason) (s : State) : HostKeeps s (resync r s) := by
  constructor <;> first | rfl | exact id | exact ⟨[], by simp⟩

theorem setBuf_keeps (b : List Byte) (s : State) : HostKeeps s { s with buf := b } := by
  constructor <;> first | rfl | exact id | exact ⟨[], by simp⟩

theorem replyOk_keeps (h : FrameHead) (rpdu : List Byte) (s : State) : HostKeeps s (replyOk h rpdu s) :=
  (sendReply_keeps h rpdu s).trans (push_keeps _ _)

theorem raiseExc_keeps (h : FrameHead) (fc code : Byte) (s : State) : HostKeeps s (raiseExc h fc code s) :=
  (sendReply_keeps h _ s).trans (push_keeps _ _)

/-- The latch after a write tracks the time registers if it did before (10_state.md R22). -/
theorem storeAndEval_tracks (a : Nat) (vs : List U16) (s : State) (h : TracksTime s) :
    TracksTime (storeAndEval a vs s) := by
  unfold TracksTime at *
  rw [storeAndEval_eq]
  by_cases ha : a ≤ 1
  · simp [ha, TimeLatch.eval_eq, State.regAt]
  · have h0 := storeRegs_getElem? s.reg a vs 0 (by omega)
    have h1 := storeRegs_getElem? s.reg a vs 1 (by omega)
    rw [if_neg (by omega)] at h0 h1
    simp only [State.regAt, if_neg ha, h0, h1] at *
    exact h

/-- A write and AfterWrite, as the host writes do them (41_host_commands.md R112, R113, R116). -/
theorem afterWrite_storeAndEval_keeps (a : Nat) (vs : List U16) (s : State) :
    HostKeeps s (afterWrite (storeAndEval a vs s)) := by
  have ht := storeAndEval_tracks a vs s
  rw [afterWrite_eq]
  constructor
  case queue =>
    have hq : (storeAndEval a vs s).nq = s.nq := by rw [storeAndEval_eq]
    have hc : (storeAndEval a vs s).cfg = s.cfg := by rw [storeAndEval_eq]
    simp only [hq, hc]
    generalize (storeAndEval a vs s).tl = tl
    split
    · next h => exact ⟨_, rfl, fun _ => by simp; omega⟩
    · exact ⟨[], by simp⟩
  case tracks => exact fun hs => ht hs
  case replies => exact ⟨[], by rw [storeAndEval_eq]; simp⟩
  all_goals first | (rw [storeAndEval_eq]; done) | exact fun _ => rfl

theorem storeWriteBlock_eq_some {a : Nat} {vs : List U16} {s t : State} (h : storeWriteBlock a vs s = some t) :
    a + vs.length ≤ 32 ∧ t = storeAndEval a vs s := by
  unfold storeWriteBlock at h
  split at h
  · exact ⟨by assumption, by simpa using h.symm⟩
  · simp at h

theorem storeWrite_eq_some {a : Nat} {v : U16} {s t : State} (h : storeWrite a v s = some t) :
    a < 32 ∧ t = storeAndEval a [v] s := by
  unfold storeWrite at h
  split at h
  · exact ⟨by assumption, by simpa using h.symm⟩
  · simp at h

theorem runPdu_keeps (h : FrameHead) (p : Pdu) (s : State) : HostKeeps s (runPdu h p s) := by
  cases p with
  | read req =>
    unfold runPdu runReadRegisters
    cases req with
    | none => exact resync_keeps _ _
    | some r =>
      dsimp only
      split
      · exact raiseExc_keeps _ _ _ _
      · split
        · exact raiseExc_keeps _ _ _ _
        · exact replyOk_keeps _ _ _
  | writeSingle req =>
    unfold runPdu runWriteSingle
    cases req with
    | none => exact resync_keeps _ _
    | some r =>
      dsimp only
      split
      · exact raiseExc_keeps _ _ _ _
      · next t ht =>
        obtain ⟨-, rfl⟩ := storeWrite_eq_some ht
        exact (afterWrite_storeAndEval_keeps _ _ _).trans (replyOk_keeps _ _ _)
  | writeMultiple req =>
    unfold runPdu runWriteMultiple
    cases req with
    | none => exact resync_keeps _ _
    | some r =>
      dsimp only
      split
      · exact raiseExc_keeps _ _ _ _
      · split
        · exact raiseExc_keeps _ _ _ _
        · next t ht =>
          obtain ⟨-, rfl⟩ := storeWriteBlock_eq_some ht
          exact (afterWrite_storeAndEval_keeps _ _ _).trans (replyOk_keeps _ _ _)
  | unsupported fc => exact raiseExc_keeps _ _ _ _

theorem processBuffer_keeps (fuel : Nat) (s : State) : HostKeeps s (processBuffer fuel s) := by
  induction fuel generalizing s with
  | zero => exact push_keeps _ _
  | succ fuel ih =>
    unfold processBuffer
    split
    · exact push_keeps _ _
    · exact resync_keeps _ _
    · next h fc args rest _ =>
      have := (setBuf_keeps rest s).trans (runPdu_keeps h (decodePdu fc args) _)
      split
      · exact this
      · exact this.trans (ih _)

theorem acceptChunk_keeps (c : List Byte) (s : State) : HostKeeps s (acceptChunk c s) := by
  unfold acceptChunk
  split
  · exact resync_keeps _ _
  · exact (setBuf_keeps _ _).trans (processBuffer_keeps _ _)

/-! ## The buffer -/

theorem runPdu_buf (h : FrameHead) (p : Pdu) (s : State) :
    (runPdu h p s).buf = if pduMalformed p then [] else s.buf := by
  have hw (a : Nat) (vs : List U16) : (afterWrite (storeAndEval a vs s)).buf = s.buf := by
    rw [afterWrite_eq, storeAndEval_eq]
  rcases p with (_ | r) | (_ | r) | (_ | r) | fc
  · rfl
  · simp only [runPdu, runReadRegisters, pduMalformed]; split <;> [skip; split] <;> rfl
  · rfl
  · simp only [runPdu, runWriteSingle, pduMalformed]
    split
    · rfl
    · next t ht => obtain ⟨-, rfl⟩ := storeWrite_eq_some ht; exact hw _ _
  · rfl
  · simp only [runPdu, runWriteMultiple, pduMalformed]
    split
    · rfl
    · split
      · rfl
      · next t ht => obtain ⟨-, rfl⟩ := storeWriteBlock_eq_some ht; exact hw _ _
  · rfl

/-- What frame processing leaves in the buffer waits for more bytes, and came from its end (41_host_commands.md
R108). -/
theorem processBuffer_buf (fuel : Nat) (s : State) (hf : s.buf.length < fuel) :
    detectFrame (processBuffer fuel s).buf = .wait ∧ (processBuffer fuel s).buf.length ≤ s.buf.length := by
  induction fuel generalizing s with
  | zero => omega
  | succ fuel ih =>
    unfold processBuffer
    split
    · next hd => exact ⟨hd, Nat.le_refl _⟩
    · exact ⟨rfl, Nat.zero_le _⟩
    · next h fc args rest hd =>
      have hl : s.buf.length = 8 + args.length + rest.length := by
        rw [(detectFrame_eq_frame hd).1, List.length_append, frameBytes_length]; simp; omega
      split
      · next hm => rw [runPdu_buf, if_pos hm]; exact ⟨rfl, Nat.zero_le _⟩
      · next hm =>
        have hb := runPdu_buf h (decodePdu fc args) { s with buf := rest }
        rw [if_neg hm] at hb
        have := ih (runPdu h (decodePdu fc args) { s with buf := rest }) (by rw [hb]; dsimp only; omega)
        rw [hb] at this
        exact ⟨this.1, by have := this.2; dsimp only at this; omega⟩

theorem acceptChunk_buf (c : List Byte) (s : State) :
    detectFrame (acceptChunk c s).buf = .wait ∧ ((acceptChunk c s).buf = [] ∨ (acceptChunk c s).buf.length ≤ s.cfg.bufCap) := by
  unfold acceptChunk
  split
  · exact ⟨rfl, .inl rfl⟩
  · next hc =>
    have := processBuffer_buf (s.buf.length + c.length + 1) { s with buf := s.buf ++ c } (by simp)
    simp only [List.length_append] at this
    exact ⟨this.1, .inr (by omega)⟩

/-! ## Buffer, liveness and outcomes do not matter to a command -/

/-- `s` with another buffer, liveness table and list of outcomes. -/
def State.withPort (s : State) (b : List Byte) (l : Liveness) (o : List OpOutcome) : State :=
  { s with buf := b, lt := l, outs := o }

theorem storeAndEval_withPort (a : Nat) (vs : List U16) (s : State) (b : List Byte) (l : Liveness)
    (o : List OpOutcome) :
    afterWrite (storeAndEval a vs (s.withPort b l o)) = (afterWrite (storeAndEval a vs s)).withPort b l o := by
  simp only [afterWrite_eq, storeAndEval_eq, State.withPort]

/-- A command's effect does not depend on the buffer, the liveness table or the outcomes recorded before it
(41_host_commands.md R111 to R114). -/
theorem runPdu_withPort (h : FrameHead) (p : Pdu) (s : State) :
    ∃ out, ∀ b l o, runPdu h p (s.withPort b l o) =
      (runPdu h p s).withPort (if pduMalformed p then [] else b) l (o ++ [out]) := by
  have hw1 (a : Nat) (v : U16) (b l o) :
      storeWrite a v (s.withPort b l o) = (storeWrite a v s).map fun _ => storeAndEval a [v] (s.withPort b l o) := by
    unfold storeWrite; split <;> rfl
  have hw2 (a : Nat) (vs : List U16) (b l o) :
      storeWriteBlock a vs (s.withPort b l o) =
        (storeWriteBlock a vs s).map fun _ => storeAndEval a vs (s.withPort b l o) := by
    unfold storeWriteBlock; split <;> rfl
  rcases p with (_ | r) | (_ | r) | (_ | r) | fc
  · exact ⟨_, fun _ _ _ => rfl⟩
  · simp only [runPdu, runReadRegisters, pduMalformed]
    have hr (b l o) : storeReadBlock r.addr.toNat r.qty.toNat (s.withPort b l o)
        = storeReadBlock r.addr.toNat r.qty.toNat s := rfl
    simp only [hr]
    split
    · exact ⟨_, fun _ _ _ => rfl⟩
    · split <;> exact ⟨_, fun _ _ _ => rfl⟩
  · exact ⟨_, fun _ _ _ => rfl⟩
  · simp only [runPdu, runWriteSingle, pduMalformed, hw1]
    cases hs : storeWrite r.addr.toNat r.value s with
    | none => exact ⟨_, fun _ _ _ => rfl⟩
    | some t =>
      obtain ⟨-, rfl⟩ := storeWrite_eq_some hs
      exact ⟨.ok .unit, fun b l o => by simp only [Option.map_some, storeAndEval_withPort]; rfl⟩
  · exact ⟨_, fun _ _ _ => rfl⟩
  · simp only [runPdu, runWriteMultiple, pduMalformed, hw2]
    split
    · exact ⟨_, fun _ _ _ => rfl⟩
    · cases hs : storeWriteBlock r.addr.toNat (writeManyValues r) s with
      | none => exact ⟨_, fun _ _ _ => rfl⟩
      | some t =>
        obtain ⟨-, rfl⟩ := storeWriteBlock_eq_some hs
        exact ⟨.ok .unit, fun b l o => by simp only [Option.map_some, storeAndEval_withPort]; rfl⟩
  · exact ⟨_, fun _ _ _ => rfl⟩

/-- A host command as a step is the command run from an empty list of outcomes. -/
theorem exec_pdu (h : FrameHead) (p : Pdu) (s : State) : exec (p.instr h) s = .next (runPdu h p s.begin) := by
  cases p <;> rfl

end Sys2Proof.Machine
end

