-- ==== Sys2Proof/Laws/PerInstr.lean ====
section
/-! SUPPORT. Statements about every operation, one lemma per constructor: the byte that selects an operation in its
encoding is the one spec/opcode_table.json gives its row. -/

namespace Sys2Proof.Laws.Selector

/-- The byte of a request that selects the operation: the first byte of a port request, the first PDU byte of a frame
(30_encoding.md R66, R69, R84). -/
def selecting : Request → Option Byte
  | .port bytes => bytes[0]?
  | .frame bytes => bytes[7]?

/-- The match column of spec/opcode_table.json; an unsupported function code stands for itself (30_encoding.md R69). -/
def selectorOf : Instr → Byte
  | .readRegisters _ _ => 0x03
  | .writeSingle _ _ => 0x06
  | .writeMultiple _ _ => 0x10
  | .unsupported _ fc => fc
  | .read _ => 0xA0
  | .readBlock _ _ => 0xA1
  | .write _ _ => 0xA2
  | .writeBlock _ _ => 0xA3
  | .consumeChangedTime => 0xA4
  | .getTime => 0xA5
  | .getDate => 0xA6
  | .getLogEnable => 0xA7
  | .render _ _ => 0xB0
  | .publish => 0xB1
  | .displayStep => 0xB2
  | .scanStep => 0xC0
  | .receiveChunk _ => 0xD0
  | .connect => 0xD1
  | .disconnect => 0xD2
  | .protoIdle => 0xD3
  | .kick _ => 0xE0
  | .supervisorCycle => 0xE1
  | .watchdogInit _ => 0xE2
  | .watchdogKick => 0xE3
  | .timeAdvance _ => 0xF0

/-- The operation's encoding is selected by its row's byte. -/
def Statement (i : Instr) : Prop := selecting (encode i) = some (selectorOf i)

/-- The first PDU byte of a frame. -/
theorem selecting_frameBytes (h : FrameHead) (fc : Byte) (args : List Byte) :
    selecting (.frame (frameBytes h (fc :: args))) = some fc := by
  simp [selecting, frameBytes, bytes16]

theorem readRegisters (h : FrameHead) (req : Option ReadReq) : Statement (.readRegisters h req) := by
  cases req <;> exact selecting_frameBytes _ _ _
theorem writeSingle (h : FrameHead) (req : Option WriteReq) : Statement (.writeSingle h req) := by
  cases req <;> exact selecting_frameBytes _ _ _
theorem writeMultiple (h : FrameHead) (req : Option WriteManyReq) : Statement (.writeMultiple h req) := by
  cases req <;> exact selecting_frameBytes _ _ _
theorem unsupported (h : FrameHead) (fc : Byte) : Statement (.unsupported h fc) := selecting_frameBytes _ _ _
theorem read (a : Nat) : Statement (.read a) := rfl
theorem readBlock (a q : Nat) : Statement (.readBlock a q) := rfl
theorem write (a : Nat) (v : U16) : Statement (.write a v) := rfl
theorem writeBlock (a : Nat) (vs : List U16) : Statement (.writeBlock a vs) := rfl
theorem consumeChangedTime : Statement .consumeChangedTime := rfl
theorem getTime : Statement .getTime := rfl
theorem getDate : Statement .getDate := rfl
theorem getLogEnable : Statement .getLogEnable := rfl
theorem render (m sec : U16) : Statement (.render m sec) := rfl
theorem publish : Statement .publish := rfl
theorem displayStep : Statement .displayStep := rfl
theorem scanStep : Statement .scanStep := rfl
theorem receiveChunk (chunk : List Byte) : Statement (.receiveChunk chunk) := rfl
theorem connect : Statement .connect := rfl
theorem disconnect : Statement .disconnect := rfl
theorem protoIdle : Statement .protoIdle := rfl
theorem kick (slot : Slot) : Statement (.kick slot) := rfl
theorem supervisorCycle : Statement .supervisorCycle := rfl
theorem watchdogInit (t : Nat) : Statement (.watchdogInit t) := rfl
theorem watchdogKick : Statement .watchdogKick := rfl
theorem timeAdvance (d : Nat) : Statement (.timeAdvance d) := rfl

end Sys2Proof.Laws.Selector
end

