-- ==== Sys2Proof/Laws/Scan.lean ====
section
/-! SUPPORT. What the fold, the shift sequence and the pin events of a scan step do, once each (43_scan_engine.md). -/

namespace Sys2Proof.Machine

@[simp] theorem foldRow_length (cfg : Config) (pb : Bitmap) (s : Nat) :
    (foldRow cfg pb s).length = cfg.shiftLen := by
  unfold foldRow Config.shiftLen
  split <;> simp [foldMod, *]

@[simp] theorem shiftSeq_length (cfg : Config) (pb : Bitmap) (s : Nat) :
    (shiftSeq cfg pb s).length = cfg.shiftLen := by
  unfold shiftSeq orderBits
  split <;> simp

theorem scanRows_pos (cfg : Config) : 0 < cfg.scanRows := by unfold Config.scanRows; split <;> omega

/-- Column c of a scan row under FOLD_MOD (43_scan_engine.md R144). -/
theorem foldRow_mod_getElem? (cfg : Config) (pb : Bitmap) (s c : Nat) (hf : cfg.fold = .mod) (hc : c < cfg.width) :
    (foldRow cfg pb s)[c]? = some true ↔
      ∃ g < 16 / cfg.scanRows, bitmapGet pb (s + g * cfg.scanRows) c = true := by
  simp [foldRow, hf, foldMod, hc, List.any_eq_true]

/-- Row s and column c of a fold given as a table (43_scan_engine.md R144). -/
theorem foldRow_other_getElem? {cfg : Config} {len : Nat} {rows : List (List PixelExpr)} (pb : Bitmap) (s c : Nat)
    (hf : cfg.fold = .other len rows) (hc : c < len) :
    (foldRow cfg pb s)[c]? = some (evalPixel pb (foldEntry rows s c)) := by
  simp [foldRow, hf, hc]

/-- Every function of the pixels `ps` is an expression: by cases on the first pixel, a function of the others. -/
theorem exists_evalPixel_of_pixels (ps : List (Nat × Nat)) (f : (Nat × Nat → Bool) → Bool)
    (hf : ∀ u v, (∀ p ∈ ps, u p = v p) → f u = f v) :
    ∃ e, ∀ b, evalPixel b e = f fun p => bitmapGet b p.1 p.2 := by
  induction ps generalizing f with
  | nil => exact ⟨.const (f fun _ => false), fun b => hf _ _ (by simp)⟩
  | cons p ps ih =>
    have hs : ∀ a u v, (∀ q ∈ ps, u q = v q) → f (Function.update u p a) = f (Function.update v p a) := by
      intro a u v h
      refine hf _ _ fun q hq => ?_
      by_cases hqp : q = p
      · subst hqp; simp
      · simpa [hqp] using h q (by simpa [hqp] using hq)
    obtain ⟨lit, hlit⟩ := ih (fun v => f (Function.update v p true)) (hs true)
    obtain ⟨unlit, hunlit⟩ := ih (fun v => f (Function.update v p false)) (hs false)
    refine ⟨.or (.and (.pixel p.1 p.2) lit) (.and (.not (.pixel p.1 p.2)) unlit), fun b => ?_⟩
    have hu := Function.update_eq_self p fun p : Nat × Nat => bitmapGet b p.1 p.2
    cases hb : bitmapGet b p.1 p.2 <;> simp only [hb] at hu <;> simp [evalPixel, hb, hlit, hunlit, hu]

/-- The bitmap of width `w` with given pixels. -/
def bitmapOf (w : Nat) (v : Nat × Nat → Bool) : Bitmap :=
  ⟨Vector.ofFn fun y => (List.range w).map fun x => v (y, x)⟩

theorem bitmapOf_get {w : Nat} {b : Bitmap} (hb : Shaped w b) : bitmapOf w (fun p => bitmapGet b p.1 p.2) = b := by
  obtain ⟨rows⟩ := b
  unfold bitmapOf
  congr 1
  apply Vector.ext
  intro y hy
  have hl : rows[y].length = w := hb _ (by simp [Vector.mem_toList_iff])
  apply List.ext_getElem <;> simp [bitmapGet, hl]
  intro x hx
  simp [hx, hl]

theorem bitmapOf_congr {w : Nat} {u v : Nat × Nat → Bool} (h : ∀ y x, y < 16 → x < w → u (y, x) = v (y, x)) :
    bitmapOf w u = bitmapOf w v := by
  have hr : ∀ y : Fin 16, (List.range w).map (fun x => u (y, x)) = (List.range w).map fun x => v (y, x) :=
    fun y => List.map_congr_left fun x hx => h y x y.isLt (List.mem_range.mp hx)
  unfold bitmapOf
  simp only [hr]

/-- Every function of a bitmap of width `w` is an expression. -/
theorem exists_evalPixel_eq (w : Nat) (f : Bitmap → Bool) :
    ∃ e, ∀ b, Shaped w b → evalPixel b e = f b := by
  have hf : ∀ u v : Nat × Nat → Bool, (∀ p ∈ List.product (List.range 16) (List.range w), u p = v p) →
      f (bitmapOf w u) = f (bitmapOf w v) := fun u v h =>
    congrArg f (bitmapOf_congr fun y x hy hx => h (y, x)
      (List.mem_product.mpr ⟨List.mem_range.mpr hy, List.mem_range.mpr hx⟩))
  obtain ⟨e, he⟩ := exists_evalPixel_of_pixels _ (fun v => f (bitmapOf w v)) hf
  exact ⟨e, fun b hb => by rw [he, bitmapOf_get hb]⟩

/-- Any function from a bitmap of width `w` and a scan row to `len` bits is a fold (00_scope.md R8,
43_scan_engine.md R144): some legal table computes it. -/
theorem exists_fold (cfg : Config) (len : Nat) (f : Bitmap → Nat → Nat → Bool) : ∃ rows : List (List PixelExpr),
    foldLegal { cfg with fold := .other len rows } = true ∧
    ∀ b s c, Shaped cfg.width b → s < cfg.scanRows → c < len →
      (foldRow { cfg with fold := .other len rows } b s)[c]? = some (f b s c) := by
  choose e he using fun s c => exists_evalPixel_eq cfg.width fun b => f b s c
  refine ⟨(List.range cfg.scanRows).map fun s => (List.range len).map (e s), ?_, fun b s c hb hs hc => ?_⟩
  · simp [foldLegal, Config.scanRows]
  · rw [foldRow_other_getElem? b s c rfl hc, ← he s c b hb]
    simp [foldEntry, hs, hc]

/-! ## Lit LEDs -/

/-- The LEDs that are lit: those of the scan row shown, in the columns of the lit positions (43_scan_engine.md R149). -/
theorem State.ledLit_iff (s : State) (y x : Nat) : s.ledLit y x = true ↔ ∃ row bits, s.shown = some (row, bits) ∧
    (∃ ys, s.cfg.wiring.rows[row]? = some ys ∧ y ∈ ys) ∧
    ∃ i : Nat, bits[i]? = some true ∧ s.cfg.wiring.columns[i]? = some x := by
  unfold State.ledLit
  cases s.shown with
  | none => simp
  | some p =>
    obtain ⟨row, bits⟩ := p
    simp only [Bool.and_eq_true, List.any_eq_true, List.mem_range, Option.some.injEq, Prod.mk.injEq,
      List.getD_eq_getElem?_getD]
    constructor
    · rintro ⟨h1, i, hi, h2, h3⟩
      refine ⟨row, bits, ⟨rfl, rfl⟩, ?_, i, by simpa [hi] using h2, by simpa using h3⟩
      cases h : s.cfg.wiring.rows[row]? with
      | none => simp [h] at h1
      | some ys => exact ⟨ys, rfl, by simpa [h] using h1⟩
    · rintro ⟨_, _, ⟨rfl, rfl⟩, ⟨ys, h1, h2⟩, i, h3, h4⟩
      have hi : i < bits.length := by
        by_contra hc
        simp [List.getElem?_eq_none (Nat.le_of_not_lt hc)] at h3
      exact ⟨by simpa [h1] using h2, i, hi, by simp [h3], by simp [h4]⟩

theorem State.ledLit_congr {s t : State} (hs : t.shown = s.shown) (hc : t.cfg = s.cfg) (y x : Nat) :
    t.ledLit y x = s.ledLit y x := by unfold State.ledLit; rw [hs, hc]

/-! ## Events -/

/-- The effect of an event on the pins, the panel and the trace, apart from the rest of the state. -/
theorem emitAll_eq (s : State) (es : List PinEvent) : emitAll s es = { s with
    pins := (emitAll s es).pins, panel := (emitAll s es).panel, pt := s.pt ++ es.map .item } := by
  induction es generalizing s with
  | nil => simp [emitAll]
  | cons e es ih =>
    have h : emitAll s (e :: es) = emitAll (emit s e) es := rfl
    rw [h, ih (emit s e)]
    simp [emit]

theorem emitAll_pins (s : State) (es : List PinEvent) : (emitAll s es).pins = es.foldl Pins.drive s.pins := by
  induction es generalizing s with
  | nil => rfl
  | cons e es ih => exact ih (emit s e)

/-- Events that leave OE alone leave OE where it is. -/
theorem drive_oe (es : List PinEvent) (p : Pins) (h : ∀ b, .oe b ∉ es) : (es.foldl Pins.drive p).oe = p.oe := by
  induction es generalizing p with
  | nil => rfl
  | cons e es ih =>
    rw [List.foldl_cons, ih _ (fun b hb => h b (by simp [hb]))]
    cases e with
    | oe b => exact absurd (by simp) (h b)
    | _ => rfl

/-- Shifting one bit and then more keeps the last bits of all of them. -/
theorem lastN_lastN {len : Nat} (sr : List Bool) (h : sr.length = len) (b : Bool) (seq : List Bool) :
    lastN len (lastN len (sr ++ [b]) ++ seq) = lastN len (sr ++ b :: seq) := by
  have h1 : lastN len (sr ++ [b]) = (sr ++ [b]).drop 1 := by
    unfold lastN; rw [List.length_append, List.length_singleton, h]; congr 1; omega
  have h2 : (sr ++ [b]).drop 1 ++ seq = (sr ++ b :: seq).drop 1 := by
    rw [← List.drop_append_of_le_length (by simp), List.append_assoc]; rfl
  rw [h1, h2]
  unfold lastN
  rw [List.drop_drop, List.length_drop]
  congr 1
  simp only [List.length_append, List.length_cons]
  omega

/-- Shifting a sequence in, each bit with a rising and a falling clock: SR takes every bit, DATA ends at the last,
CLK rests low (43_scan_engine.md R146, R149). -/
theorem emitAll_bits (seq : List Bool) (s : State) (hclk : s.pins.clk = false)
    (hsr : s.panel.sr.length = s.cfg.shiftLen) :
    (emitAll s (seq.flatMap bitEvents)).pins = { s.pins with data := seq.getLast?.getD s.pins.data } ∧
    (emitAll s (seq.flatMap bitEvents)).panel.lr = s.panel.lr ∧
    (emitAll s (seq.flatMap bitEvents)).panel.sr = lastN s.cfg.shiftLen (s.panel.sr ++ seq) := by
  induction seq generalizing s with
  | nil => simp [emitAll, lastN, hsr]
  | cons b seq ih =>
    have h : emitAll s ((b :: seq).flatMap bitEvents) = emitAll (emitAll s (bitEvents b)) (seq.flatMap bitEvents) := by
      rw [List.flatMap_cons, emitAll_append]
    have hp : (emitAll s (bitEvents b)).pins = { s.pins with data := b } := by
      rw [emitAll_pins]; simp [bitEvents, Pins.drive, hclk]
    have hq : (emitAll s (bitEvents b)).panel = ⟨lastN s.cfg.shiftLen (s.panel.sr ++ [b]), s.panel.lr⟩ := by
      simp [emitAll, bitEvents, emit, Panel.sample, Pins.drive, hclk]
    have hcfg : (emitAll s (bitEvents b)).cfg = s.cfg := by rw [emitAll_eq]
    have := ih (emitAll s (bitEvents b)) (by rw [hp]; exact hclk) (by rw [hq, hcfg]; simp [lastN, hsr])
    rw [h, this.1, this.2.1, this.2.2, hp, hq, hcfg]
    refine ⟨?_, rfl, ?_⟩
    · cases seq with
      | nil => rfl
      | cons c seq => simp [List.getLast?_cons]
    · exact lastN_lastN _ hsr b seq

/-- What a scan row leaves on the pins and in the panel (43_scan_engine.md R146, R149, R150). -/
theorem scanRow_shows (s : State) (hclk : s.pins.clk = false) (hlat : s.pins.lat = false)
    (hsr : s.panel.sr.length = s.cfg.shiftLen) :
    (scanRow s).panel = ⟨shiftSeq s.cfg s.pb s.srow, shiftSeq s.cfg s.pb s.srow⟩ := by
  generalize hq : shiftSeq s.cfg s.pb s.srow = seq
  have hl : seq.length = s.cfg.shiftLen := by rw [← hq, shiftSeq_length]
  have h0 : (scanRow s).panel = (emitAll s (scanEvents s.srow seq)).panel := by rw [← hq]; rfl
  have h1 : (emitAll s [.oe false, .addr s.srow]).panel = s.panel := rfl
  have h2 : (emitAll s [.oe false, .addr s.srow]).cfg = s.cfg := rfl
  obtain ⟨hp, -, hr⟩ := emitAll_bits seq (emitAll s [.oe false, .addr s.srow]) hclk (by rw [h1, h2]; exact hsr)
  rw [h1, h2] at hr
  have hr' : lastN s.cfg.shiftLen (s.panel.sr ++ seq) = seq := by
    unfold lastN
    rw [List.length_append, List.drop_append, List.drop_eq_nil_of_le (by omega)]
    rw [show s.panel.sr.length + seq.length - s.cfg.shiftLen - s.panel.sr.length = 0 by omega]
    simp
  rw [hr'] at hr
  rw [h0, scanEvents, emitAll_append, emitAll_append]
  generalize emitAll (emitAll s [.oe false, .addr s.srow]) (seq.flatMap bitEvents) = t at hp hr
  have hlat' : t.pins.lat = false := by rw [hp]; exact hlat
  simp [emitAll, emit, Panel.sample, Pins.drive, hlat', hr]

end Sys2Proof.Machine
end

