-- ==== Sys2Proof/Laws/Step.lean ====
section
/-! SUPPORT. What one operation and one step can do, said once: every next state is one of these effects, so a
statement about every operation is a case for each effect and never unfolds `exec`. -/

namespace Sys2Proof.Machine

/-- `Effect s i t`: operation `i` may take the state `s` to `t`. -/
inductive Effect (s : State) : Instr → State → Prop
  /-- a host command (41_host_commands.md R111 to R114) -/
  | command (h : FrameHead) (p : Pdu) : Effect s (p.instr h) (runPdu h p s.begin)
  /-- an answer without any effect (40_register_file.md R95, R96, R101 to R103; NotFound of R97, R98) -/
  | answer (i : Instr) (o : OpOutcome) (hd : i ≠ .displayStep) (ht : ∀ d, i ≠ .timeAdvance d)
      (hk : ∀ slot, kicks slot i = false) :
      Effect s i (s.done o)
  /-- a direct write (40_register_file.md R97) -/
  | write (a : Nat) (v : U16) (ha : a < 32) : Effect s (.write a v) ((storeAndEval a [v] s).done (.ok .unit))
  /-- a direct block write (40_register_file.md R98) -/
  | writeBlock (a : Nat) (vs : List U16) (ha : a + vs.length ≤ 32) :
      Effect s (.writeBlock a vs) ((storeAndEval a vs s).done (.ok .unit))
  | consume : Effect s .consumeChangedTime ((clearLatch s).done (.ok (.change (changedTime s))))
  | render (m sec : U16) : Effect s (.render m sec) ((renderTo m sec s).done (.ok .unit))
  | publish : Effect s .publish ((publishBuffer s).done (.ok .unit))
  | display : Effect s .displayStep ((kickSlot .display (displayWork s)).done (.ok .unit))
  | scan : Effect s .scanStep (noteOverrun (scanRow s))
  | chunk (c : List Byte) (ho : s.conn = .opened) :
      Effect s (.receiveChunk c) (kickSlot .proto (acceptChunk c s.begin))
  /-- an operation that is not enabled (log 5) -/
  | blocked (i : Instr) (hi : (i = .connect ∧ s.conn = .opened) ∨
      (s.conn = .closed ∧ (i = .disconnect ∨ ∃ c, i = .receiveChunk c))) : Effect s i s.begin
  | connect (hc : s.conn = .closed) : Effect s .connect ({ s with conn := .opened, buf := [] }.done (.ok .unit))
  | disconnect (ho : s.conn = .opened) :
      Effect s .disconnect ({ s with conn := .closed, buf := [] }.done (.ok .unit))
  /-- a liveness kick and nothing else (60_exceptions.md R165, 41_host_commands.md R124) -/
  | kick (i : Instr) (slot : Slot) (hi : i = .kick slot ∨ (i = .protoIdle ∧ slot = .proto)) :
      Effect s i ((kickSlot slot s).done (.ok .unit))
  | supervise : Effect s .supervisorCycle ((superviseOnce s).done (.ok .unit))
  | init (t : Nat) : Effect s (.watchdogInit t) ((startWatchdog t s).done (.ok .unit))
  | reload : Effect s .watchdogKick ((reloadWatchdog s).done (.ok .unit))
  | advance (d : Nat) : Effect s (.timeAdvance d) ((advanceTime d s).done (.ok .unit))

/-- Every next state is one of the effects. -/
theorem exec_effect {i : Instr} {s t : State} (h : exec i s = .next t) : Effect s i t := by
  cases i with
  | readRegisters hd req => cases h; exact .command hd (.read req)
  | writeSingle hd req => cases h; exact .command hd (.writeSingle req)
  | writeMultiple hd req => cases h; exact .command hd (.writeMultiple req)
  | unsupported hd fc => cases h; exact .command hd (.unsupported fc)
  | read a =>
    simp only [exec, execRead] at h
    split at h <;> cases h <;> exact .answer _ _ (by simp) (by simp) (fun _ => rfl)
  | readBlock a q =>
    simp only [exec, execReadBlock] at h
    split at h
    · cases h
    · split at h <;> cases h <;> exact .answer _ _ (by simp) (by simp) (fun _ => rfl)
  | write a v =>
    simp only [exec, execWrite] at h
    split at h
    · next u hu => obtain ⟨ha, rfl⟩ := storeWrite_eq_some hu; cases h; exact .write a v ha
    · cases h; exact .answer _ _ (by simp) (by simp) (fun _ => rfl)
  | writeBlock a vs =>
    simp only [exec, execWriteBlock] at h
    split at h
    · cases h
    · split at h
      · next u hu => obtain ⟨ha, rfl⟩ := storeWriteBlock_eq_some hu; cases h; exact .writeBlock a vs ha
      · cases h; exact .answer _ _ (by simp) (by simp) (fun _ => rfl)
  | consumeChangedTime => cases h; exact .consume
  | getTime => cases h; exact .answer _ _ (by simp) (by simp) (fun _ => rfl)
  | getDate => cases h; exact .answer _ _ (by simp) (by simp) (fun _ => rfl)
  | getLogEnable => cases h; exact .answer _ _ (by simp) (by simp) (fun _ => rfl)
  | render m sec => cases h; exact .render m sec
  | publish => cases h; exact .publish
  | displayStep => cases h; exact .display
  | scanStep => cases h; exact .scan
  | receiveChunk c =>
    simp only [exec, execReceiveChunk] at h
    split at h <;> cases h
    · exact .chunk c ‹_›
    · exact .blocked _ (.inr ⟨‹_›, .inr ⟨c, rfl⟩⟩)
  | connect =>
    simp only [exec, execConnect] at h
    split at h <;> cases h
    · exact .connect ‹_›
    · exact .blocked _ (.inl ⟨rfl, ‹_›⟩)
  | disconnect =>
    simp only [exec, execDisconnect] at h
    split at h <;> cases h
    · exact .disconnect ‹_›
    · exact .blocked _ (.inr ⟨‹_›, .inl rfl⟩)
  | protoIdle => cases h; exact .kick _ .proto (.inr ⟨rfl, rfl⟩)
  | kick slot => cases h; exact .kick _ slot (.inl rfl)
  | supervisorCycle => cases h; exact .supervise
  | watchdogInit t => cases h; exact .init t
  | watchdogKick => cases h; exact .reload
  | timeAdvance d => cases h; exact .advance d

/-- A next state of a turn: an operation was executed, or the supervisor read a slot. -/
theorem takeTurn_next {u : Turn} {s t : State} (h : takeTurn u s = .next t) :
    (∃ r i, u = .operation r ∧ decodeRequest r = .ok i ∧ exec i s = .next t) ∨
      (u = .superviseRead ∧ t = superviseRead s) := by
  cases u with
  | operation r =>
    simp only [takeTurn] at h
    split at h
    · next i hi => exact .inl ⟨r, i, rfl, hi, h⟩
    · cases h
  | superviseRead => cases h; exact .inr ⟨rfl, rfl⟩

/-- A next state of a step: nothing was scheduled and nothing changed, or the first scheduled turn was taken
(log 1, 16). -/
theorem step_next_turn {s t : State} (h : step s = .next t) :
    s.fault = none ∧ configLegal s.cfg = true ∧
      ((s.pending = [] ∧ t = s) ∨
        ∃ u more, s.pending = u :: more ∧ takeTurn u { s with pending := more } = .next t) := by
  unfold step at h
  split at h
  · cases h
  · next hf =>
    split at h
    · cases h
    · next hc =>
      refine ⟨hf, by simpa using hc, ?_⟩
      split at h
      · next hp => cases h; exact .inl ⟨hp, rfl⟩
      · next u more hp => exact .inr ⟨u, more, hp, h⟩

/-- A next state of a step: nothing was scheduled and nothing changed, the operation of the first scheduled request was
executed, or the supervisor made a scheduled read (log 1, 14, 16). -/
theorem step_next {s t : State} (h : step s = .next t) :
    s.fault = none ∧ configLegal s.cfg = true ∧
      ((s.pending = [] ∧ t = s) ∨
        (∃ r more i, s.pending = .operation r :: more ∧ decodeRequest r = .ok i ∧
          exec i { s with pending := more } = .next t) ∨
        ∃ more, s.pending = .superviseRead :: more ∧ t = superviseRead { s with pending := more }) := by
  obtain ⟨hf, hc, h⟩ := step_next_turn h
  refine ⟨hf, hc, h.imp_right ?_⟩
  rintro ⟨u, more, hp, h⟩
  obtain ⟨r, i, rfl, hi, h⟩ | ⟨rfl, rfl⟩ := takeTurn_next h
  · exact .inl ⟨r, more, i, hp, hi, h⟩
  · exact .inr ⟨more, hp, rfl⟩

/-! ## Small effects -/

/-- The display task's iteration touches NQ, RB and PB only (42_display_render.md R136). -/
theorem displayWork_eq (s : State) : displayWork s = { s with
    nq := s.nq.tail, rb := (displayWork s).rb, pb := (displayWork s).pb } := by
  unfold displayWork
  cases h : s.nq <;> simp [renderTo, publishBuffer]
  cases s; simp_all

/-- A scan step touches SROW, the pins, the panel, PT, and on an overrun FAULT (43_scan_engine.md R146). -/
theorem noteOverrun_scanRow_eq (s : State) : noteOverrun (scanRow s) = { s with
    srow := (s.srow + 1) % s.cfg.scanRows
    pins := (scanRow s).pins
    panel := (scanRow s).panel
    pt := s.pt ++ (scanEvents s.srow (shiftSeq s.cfg s.pb s.srow)).map .item
    fault := (noteOverrun (scanRow s)).fault
    outs := (noteOverrun (scanRow s)).outs } := by
  unfold noteOverrun
  split <;> simp only [scanRow, State.done] <;> rw [emitAll_eq]

/-- The supervisor's iteration touches its slot and WDT_CNT (60_exceptions.md R166). -/
theorem superviseOnce_eq (s : State) : superviseOnce s = { s with
    lt := s.lt.put s.now .supervisor
    wdtCnt := if healthy (kickSlot .supervisor s) = true ∧ s.wdtRun = true then s.cfg.wdtTimeout else s.wdtCnt } := by
  unfold superviseOnce
  generalize hb : healthy (kickSlot .supervisor s) = b
  cases b <;> cases hw : s.wdtRun <;> simp [reloadWatchdog, kickSlot, hw]

/-- The clock without expiry touches `now` and WDT_CNT (60_exceptions.md R169). -/
theorem advanceTime_eq {d : Nat} {s : State} (h : ¬ Expires d s) : advanceTime d s = { s with
    now := s.now + d, wdtCnt := if s.wdtRun = true then s.wdtCnt - d else s.wdtCnt } := by
  unfold Expires at h
  unfold advanceTime
  cases hw : s.wdtRun
  · simp
  · have : ¬ s.wdtCnt ≤ d := fun hd => h ⟨hw, hd⟩
    simp [this]

/-- The clock with expiry is the block reset (60_exceptions.md R170). -/
theorem advanceTime_expires {d : Nat} {s : State} (h : Expires d s) :
    advanceTime d s = blockReset { s with now := s.now + d } := by
  unfold advanceTime
  rw [if_pos h.1, if_pos h.2]

theorem slotHealthy_iff (s : State) (slot : Slot) :
    slotHealthy s slot = true ↔ s.now - s.lt.get slot < s.cfg.thresh := by simp [slotHealthy]

/-- The last read of an iteration ends it (60_exceptions.md R166). -/
theorem readSlot_last (slot : Slot) (ok : Bool) (s : State) : readSlot ⟨slot, [], ok⟩ s = { s with
    wdtCnt := if (ok && slotHealthy s slot) = true ∧ s.wdtRun = true then s.cfg.wdtTimeout else s.wdtCnt
    sup := none
    outs := [.ok .unit] } := by
  simp only [readSlot]
  generalize (ok && slotHealthy s slot) = b
  cases b <;> cases hw : s.wdtRun <;> simp [reloadWatchdog, State.done, hw]

/-- A read that is not the last leaves the others to be made (20_memory.md R61). -/
theorem readSlot_more (slot next : Slot) (more : List Slot) (ok : Bool) (s : State) :
    readSlot ⟨slot, next :: more, ok⟩ s = { s with sup := some ⟨next, more, ok && slotHealthy s slot⟩, outs := [] } :=
  rfl

/-- What a read of the supervisor touches: its own slot, WDT_CNT, the iteration under way, and the outcomes
(20_memory.md R61, 60_exceptions.md R166). -/
theorem superviseRead_eq (s : State) : superviseRead s = { s with
    lt := (superviseRead s).lt
    wdtCnt := (superviseRead s).wdtCnt
    sup := (superviseRead s).sup
    outs := (superviseRead s).outs } := by
  unfold superviseRead
  cases s.sup with
  | none => rfl
  | some c =>
    obtain ⟨slot, more, ok⟩ := c
    cases more with
    | nil => simp only [readSlot_last]
    | cons next more => rfl

@[simp] theorem superviseRead_cfg (s : State) : (superviseRead s).cfg = s.cfg := by rw [superviseRead_eq]
@[simp] theorem superviseRead_reg (s : State) : (superviseRead s).reg = s.reg := by rw [superviseRead_eq]
@[simp] theorem superviseRead_tl (s : State) : (superviseRead s).tl = s.tl := by rw [superviseRead_eq]
@[simp] theorem superviseRead_pb (s : State) : (superviseRead s).pb = s.pb := by rw [superviseRead_eq]
@[simp] theorem superviseRead_rb (s : State) : (superviseRead s).rb = s.rb := by rw [superviseRead_eq]
@[simp] theorem superviseRead_srow (s : State) : (superviseRead s).srow = s.srow := by rw [superviseRead_eq]
@[simp] theorem superviseRead_pins (s : State) : (superviseRead s).pins = s.pins := by rw [superviseRead_eq]
@[simp] theorem superviseRead_panel (s : State) : (superviseRead s).panel = s.panel := by rw [superviseRead_eq]
@[simp] theorem superviseRead_buf (s : State) : (superviseRead s).buf = s.buf := by rw [superviseRead_eq]
@[simp] theorem superviseRead_conn (s : State) : (superviseRead s).conn = s.conn := by rw [superviseRead_eq]
@[simp] theorem superviseRead_nq (s : State) : (superviseRead s).nq = s.nq := by rw [superviseRead_eq]
@[simp] theorem superviseRead_now (s : State) : (superviseRead s).now = s.now := by rw [superviseRead_eq]
@[simp] theorem superviseRead_wdtRun (s : State) : (superviseRead s).wdtRun = s.wdtRun := by rw [superviseRead_eq]
@[simp] theorem superviseRead_pending (s : State) : (superviseRead s).pending = s.pending := by rw [superviseRead_eq]

/-- A read of the supervisor writes no slot but its own, and leaves WDT_CNT or, while it runs, reloads it. -/
theorem superviseRead_writes (s : State) :
    ((superviseRead s).lt = s.lt ∨ (superviseRead s).lt = s.lt.put s.now .supervisor) ∧
    ((superviseRead s).wdtCnt = s.wdtCnt ∨ (s.wdtRun = true ∧ (superviseRead s).wdtCnt = s.cfg.wdtTimeout)) := by
  unfold superviseRead
  cases s.sup with
  | none => exact ⟨.inr rfl, .inl rfl⟩
  | some c =>
    obtain ⟨slot, more, ok⟩ := c
    cases more with
    | cons next more => exact ⟨.inl rfl, .inl rfl⟩
    | nil =>
      simp only [readSlot_last]
      refine ⟨.inl trivial, ?_⟩
      split
      · next h => exact .inr ⟨h.2, rfl⟩
      · exact .inl rfl

/-- The four reads of an iteration with nothing between them are the whole iteration (60_exceptions.md R166). -/
theorem superviseRead_four (s : State) (h : s.sup = none) :
    superviseRead (superviseRead (superviseRead (superviseRead s))) = (superviseOnce s).done (.ok .unit) := by
  have h1 : superviseRead s = readSlot ⟨.proto, [.logger, .display, .supervisor], true⟩ (kickSlot .supervisor s) := by
    unfold superviseRead; rw [h]
  have hs : ∀ (k : State) (c : Option SupervisorCycle) (o : List OpOutcome) (slot : Slot),
      slotHealthy { k with sup := c, outs := o } slot = slotHealthy k slot := fun _ _ _ _ => rfl
  rw [h1, superviseOnce_eq]
  simp only [readSlot_more, superviseRead, readSlot_last, hs, Bool.true_and, healthy]
  simp [State.done, kickSlot, h]

/-- No operation touches the schedule (log 1). -/
theorem exec_pending {i : Instr} {s t : State} (h : exec i s = .next t) : t.pending = s.pending := by
  cases exec_effect h with
  | command hd p => exact (runPdu_keeps hd p _).pending
  | display => rw [displayWork_eq]; rfl
  | scan => rw [noteOverrun_scanRow_eq]
  | chunk c ho => exact (acceptChunk_keeps c _).pending
  | supervise => rw [superviseOnce_eq]; rfl
  | init t => unfold startWatchdog; split <;> rfl
  | advance d =>
    by_cases hx : Expires d s
    · rw [advanceTime_expires hx]; rfl
    · rw [advanceTime_eq hx]; rfl
  | write a v ha => rw [storeAndEval_eq]; rfl
  | writeBlock a vs ha => rw [storeAndEval_eq]; rfl
  | _ => rfl

/-- No turn touches the schedule. -/
theorem takeTurn_pending {u : Turn} {s t : State} (h : takeTurn u s = .next t) : t.pending = s.pending := by
  obtain ⟨r, i, -, -, h⟩ | ⟨-, rfl⟩ := takeTurn_next h
  · exact exec_pending h
  · exact superviseRead_pending s

theorem healthy_iff (s : State) : healthy s = true ↔ ∀ slot, s.now - s.lt.get slot < s.cfg.thresh := by
  simp only [healthy, Bool.and_eq_true, slotHealthy_iff]
  constructor
  · rintro ⟨⟨⟨h1, h2⟩, h3⟩, h4⟩ slot; cases slot <;> assumption
  · exact fun h => ⟨⟨⟨h .proto, h .logger⟩, h .display⟩, h .supervisor⟩

end Sys2Proof.Machine
end

