-- ==== Sys2Proof/Tests/Slice0.lean ====
section
/-! SUPPORT. Tests: the expected values are those of spec/95_test_vectors.md and of the examples the rules give.
`witness_<Statement>` shows a state and operands that meet the hypotheses of the obligation of that name. -/

namespace Sys2Proof.Tests

open Sys2Proof.Machine

/-! ## Helpers -/

/-- The state an operation leaves; the state before it if it stops. -/
def after (i : Instr) (s : State) : State :=
  match exec i s with
  | .next t => t
  | .fault _ => s
  | .refused _ => s

/-- The refusal a stopped operation gives. -/
def refusal : Host.Outcome State Fault Refusal → Option Refusal
  | .next _ => none
  | .fault _ => none
  | .refused r => some r

/-- The state after reset with a connection open, as the tables of 95_test_vectors.md sections 2.4 and 2.5 start. -/
def opened : State := { State.reset with conn := .opened }

/-- The state after reset with another configuration. -/
def withCfg (c : Config) : State := { State.reset with cfg := c }

/-- Replies and lines of a trace without their markers. -/
def items {α : Type} (xs : List (Traced α)) : List α :=
  xs.filterMap fun x => match x with
    | .item a => some a
    | .reset => none

/-- A bit sequence as a number, its first bit the most significant (43_scan_engine.md R143). -/
def wordOfBits (bs : List Bool) : Nat := bs.foldl (fun n b => 2 * n + b.toNat) 0

/-! ## Well-formedness: an ill-formed term for each check -/

theorem test_wf_data_longer_than_bc : (Instr.writeMultiple ⟨0, 0⟩ (some ⟨0, 1, 2, [0, 1, 2]⟩)).wellFormed = false := by
  decide
theorem test_wf_data_longer_than_frame :
    (Instr.writeMultiple ⟨0, 0⟩ (some ⟨0, 123, 250, List.replicate 247 0⟩)).wellFormed = false := by
  decide +kernel
theorem test_wf_unsupported_is_read : (Instr.unsupported ⟨0, 0⟩ 0x03).wellFormed = false := by decide
theorem test_wf_unsupported_is_write_single : (Instr.unsupported ⟨0, 0⟩ 0x06).wellFormed = false := by decide
theorem test_wf_unsupported_is_write_multiple : (Instr.unsupported ⟨0, 0⟩ 0x10).wellFormed = false := by decide
theorem test_wf_read_block_zero : (Instr.readBlock 0 0).wellFormed = false := by decide
theorem test_wf_write_block_empty : (Instr.writeBlock 4 []).wellFormed = false := by decide
theorem test_wf_chunk_empty : (Instr.receiveChunk []).wellFormed = false := by decide
theorem test_wf_time_zero : (Instr.timeAdvance 0).wellFormed = false := by decide

/-! ## Decoding: words written out from 30_encoding.md R66 to R73 and R84, as 95_test_vectors.md section 2.3 and 2.4 -/

/-- W1 -/
theorem test_decode_read_registers :
    decodeRequest (.frame [0x00, 0x01, 0x00, 0x00, 0x00, 0x06, 0x01, 0x03, 0x00, 0x00, 0x00, 0x02])
      = .ok (.readRegisters ⟨1, 1⟩ (some ⟨0, 2⟩)) := rfl
theorem test_decode_write_single :
    decodeRequest (.frame [0x12, 0x34, 0x00, 0x00, 0x00, 0x06, 0xFF, 0x06, 0x00, 0x05, 0xAB, 0xCD])
      = .ok (.writeSingle ⟨0x1234, 0xFF⟩ (some ⟨5, 0xABCD⟩)) := rfl
theorem test_decode_write_multiple :
    decodeRequest (.frame [0x00, 0x2C, 0x00, 0x00, 0x00, 0x09, 0x01, 0x10, 0x00, 0x1F, 0x00, 0x01, 0x02, 0xBE, 0xEF])
      = .ok (.writeMultiple ⟨0x2C, 1⟩ (some ⟨31, 1, 2, [0xBE, 0xEF]⟩)) := rfl
theorem test_decode_unsupported :
    decodeRequest (.frame [0x00, 0x32, 0x00, 0x00, 0x00, 0x05, 0x01, 0x2B, 0x0E, 0x01, 0x00])
      = .ok (.unsupported ⟨0x32, 1⟩ 0x2B) := rfl
/-- F9: a read PDU of 4 bytes -/
theorem test_decode_short_pdu :
    decodeRequest (.frame [0x00, 0x33, 0x00, 0x00, 0x00, 0x05, 0x01, 0x03, 0x00, 0x00, 0x00])
      = .ok (.readRegisters ⟨0x33, 1⟩ none) := rfl
theorem test_decode_read : decodeRequest (.port [0xA0, 31]) = .ok (.read 31) := rfl
theorem test_decode_read_two_digits : decodeRequest (.port [0xA0, 0xC8, 0x01]) = .ok (.read 200) := rfl
theorem test_decode_read_block : decodeRequest (.port [0xA1, 6, 2]) = .ok (.readBlock 6 3) := rfl
theorem test_decode_write : decodeRequest (.port [0xA2, 1, 0x12, 0x34]) = .ok (.write 1 0x1234) := rfl
theorem test_decode_write_block :
    decodeRequest (.port [0xA3, 0, 0x00, 0x05, 0x00, 0x1E]) = .ok (.writeBlock 0 [5, 30]) := rfl
theorem test_decode_consume : decodeTableWord 8 0xA4 = some .consumeChangedTime := rfl
theorem test_decode_get_time : decodeTableWord 8 0xA5 = some .getTime := rfl
theorem test_decode_get_date : decodeTableWord 8 0xA6 = some .getDate := rfl
theorem test_decode_get_log_enable : decodeTableWord 8 0xA7 = some .getLogEnable := rfl
theorem test_decode_render : decodeRequest (.port [0xB0, 0x03, 0xE8, 0x00, 0x3C]) = .ok (.render 1000 60) := rfl
theorem test_decode_publish : decodeTableWord 8 0xB1 = some .publish := rfl
theorem test_decode_display_step : decodeTableWord 8 0xB2 = some .displayStep := rfl
theorem test_decode_scan_step : decodeTableWord 8 0xC0 = some .scanStep := rfl
theorem test_decode_receive_chunk : decodeRequest (.port [0xD0, 0x00, 0x0A]) = .ok (.receiveChunk [0x00, 0x0A]) := rfl
theorem test_decode_connect : decodeTableWord 8 0xD1 = some .connect := rfl
theorem test_decode_disconnect : decodeTableWord 8 0xD2 = some .disconnect := rfl
theorem test_decode_proto_idle : decodeTableWord 8 0xD3 = some .protoIdle := rfl
theorem test_decode_kick : decodeRequest (.port [0xE0, 1]) = .ok (.kick .logger) := rfl
theorem test_decode_supervisor_cycle : decodeTableWord 8 0xE1 = some .supervisorCycle := rfl
theorem test_decode_watchdog_init : decodeRequest (.port [0xE2, 0xE8, 0x07]) = .ok (.watchdogInit 1000) := rfl
theorem test_decode_watchdog_kick : decodeTableWord 8 0xE3 = some .watchdogKick := rfl
theorem test_decode_time_advance : decodeRequest (.port [0xF0, 0]) = .ok (.timeAdvance 1) := rfl
theorem test_decode_unknown_selector : decodeRequest (.port [0xA8]) = .error (.unknownOpsel 0xA8) := rfl
/-- The table's pdu rows: a function code alone is the first byte of a PDU of zeros. -/
theorem test_decode_table_pdu_rows :
    decodeTableWord 8 0x03 = some (.readRegisters ⟨0, 0⟩ (some ⟨0, 0⟩)) ∧
    decodeTableWord 8 0x00 = some (.unsupported ⟨0, 0⟩ 0x00) := by decide +kernel
/-- 95_test_vectors.md section 2.3 -/
theorem test_expand_wr10 : (ProgramLine.wr10 3 1 0 [5, 30]).expand 1000 = [.receiveChunk
    [0x00, 0x03, 0x00, 0x00, 0x00, 0x0B, 0x01, 0x10, 0x00, 0x00, 0x00, 0x02, 0x04, 0x00, 0x05, 0x00, 0x1E]] := rfl

/-! ## One step: 95_test_vectors.md sections 2.2 to 2.10 -/

theorem test_read_year : (after (.read 2) .reset).outs = [.ok (.word 1970)] := by decide
theorem test_read_outside : (after (.read 32) .reset).outs = [.notFound] := by decide
theorem test_read_block_named :
    (after (.readBlock 0 6) .reset).outs = [.ok (.words [0, 0, 1970, 1, 1, 1])] := by decide
theorem test_read_block_last : (after (.readBlock 31 2) .reset).outs = [.notFound] := by decide
theorem test_write_seconds : (after (.write 1 30) .reset).tl = ⟨true, 0, 30⟩ := by decide
theorem test_write_other : (after (.write 5 0) .reset).tl = ⟨false, 0, 0⟩ := by decide
theorem test_write_block_overlap : (after (.writeBlock 1 [7, 2024]) .reset).tl = ⟨true, 0, 7⟩ ∧
    (after (.writeBlock 1 [7, 2024]) .reset).regAt 2 = 2024 := by decide
theorem test_write_block_outside : (after (.writeBlock 31 [1, 2]) .reset).regAt 31 = 0 := by decide
theorem test_consume_changed :
    (after .consumeChangedTime (after (.write 1 30) .reset)).outs = [.ok (.change (some (0, 30)))] := by decide
theorem test_consume_clean : (after .consumeChangedTime .reset).outs = [.ok (.change none)] := by decide
theorem test_get_time : (after .getTime .reset).outs = [.ok (.time 0 0)] := by decide
theorem test_get_date : (after .getDate .reset).outs = [.ok (.date 1970 1 1)] := by decide
theorem test_get_log_enable : (after .getLogEnable .reset).outs = [.ok (.word 1)] := by decide
/-- H4 -/
theorem test_read_registers : items (after (.readRegisters ⟨0x23, 1⟩ (some ⟨31, 1⟩)) .reset).rt
    = [[0x00, 0x23, 0x00, 0x00, 0x00, 0x05, 0x01, 0x03, 0x02, 0x00, 0x00]] := by decide
/-- H3: 0x03 wins over 0x02 -/
theorem test_read_registers_order : items (after (.readRegisters ⟨0x22, 1⟩ (some ⟨40, 126⟩)) .reset).rt
    = [[0x00, 0x22, 0x00, 0x00, 0x00, 0x03, 0x01, 0x83, 0x03]] := by decide
/-- H14 -/
theorem test_write_single : (after (.writeSingle ⟨2, 1⟩ (some ⟨1, 30⟩)) .reset).nq = [(0, 30)] ∧
    items (after (.writeSingle ⟨2, 1⟩ (some ⟨1, 30⟩)) .reset).rt
      = [[0x00, 0x02, 0x00, 0x00, 0x00, 0x06, 0x01, 0x06, 0x00, 0x01, 0x00, 0x1E]] := by decide
/-- H12 -/
theorem test_write_single_outside : items (after (.writeSingle ⟨9, 1⟩ (some ⟨32, 0x1234⟩)) .reset).rt
    = [[0x00, 0x09, 0x00, 0x00, 0x00, 0x03, 0x01, 0x86, 0x02]] := by decide
/-- H15 -/
theorem test_write_multiple :
    (after (.writeMultiple ⟨3, 1⟩ (some ⟨0, 2, 4, [0x03, 0xE8, 0x00, 0x3C]⟩)) .reset).nq = [(1000, 60)] := by
  decide
/-- H9 -/
theorem test_write_multiple_short :
    items (after (.writeMultiple ⟨0x2D, 1⟩ (some ⟨0, 2, 4, [0x00, 0x05]⟩)) .reset).rt
      = [[0x00, 0x2D, 0x00, 0x00, 0x00, 0x03, 0x01, 0x90, 0x03]] := by decide
/-- H17 -/
theorem test_unsupported : items (after (.unsupported ⟨0x31, 1⟩ 0x83) .reset).rt
    = [[0x00, 0x31, 0x00, 0x00, 0x00, 0x03, 0x01, 0x83, 0x01]] := by decide
/-- H20: two frames in one chunk -/
theorem test_receive_chunk_two : items (after (.receiveChunk
      [0x00, 0x01, 0x00, 0x00, 0x00, 0x06, 0x01, 0x03, 0x00, 0x02, 0x00, 0x01,
       0x00, 0x02, 0x00, 0x00, 0x00, 0x06, 0x01, 0x03, 0x00, 0x05, 0x00, 0x01]) opened).rt
    = [[0x00, 0x01, 0x00, 0x00, 0x00, 0x05, 0x01, 0x03, 0x02, 0x07, 0xB2],
       [0x00, 0x02, 0x00, 0x00, 0x00, 0x05, 0x01, 0x03, 0x02, 0x00, 0x01]] := by decide
/-- F11: a bad header discards the valid frame after it -/
theorem test_receive_chunk_bad_header : (after (.receiveChunk
      [0x00, 0x0E, 0x00, 0x01, 0x00, 0x06, 0x01, 0x03, 0x00, 0x00, 0x00, 0x01,
       0x00, 0x0F, 0x00, 0x00, 0x00, 0x06, 0x01, 0x03, 0x00, 0x00, 0x00, 0x01]) opened).outs
    = [.resync .badHeader] := by decide
theorem test_connect : (after .connect .reset).conn = .opened := by decide
theorem test_disconnect_drops_bytes :
    (after .disconnect (after (.receiveChunk [0x00, 0x01, 0x00, 0x00, 0x00, 0x06]) opened)).buf = [] := by decide
theorem test_proto_idle : (after .protoIdle { State.reset with now := 7 }).lt.proto = 7 := by decide
/-- RENDER(5, 30): rows 4 and 3 -/
theorem test_render : wordOfBits (after (.render 5 30) .reset).rb.rows[4] = 0x71CF87CE ∧
    wordOfBits (after (.render 5 30) .reset).rb.rows[3] = 0 := by decide +kernel
theorem test_render_clamps : (after (.render 1000 60) .reset).rb = (after (.render 999 59) .reset).rb := by
  decide +kernel
theorem test_publish : wordOfBits (after .publish (after (.render 5 30) .reset)).pb.rows[4] = 0x71CF87CE := by
  decide +kernel
theorem test_display_step : (after .displayStep { State.reset with nq := [(5, 30)] }).nq = [] ∧
    wordOfBits (after .displayStep { State.reset with nq := [(5, 30)] }).pb.rows[4] = 0x71CF87CE := by decide +kernel
/-- The first step after reset with PB = RENDER(5, 30) drives row 0 with 0xFBEF87DF (43_scan_engine.md R146). -/
theorem test_scan_step :
    (after .scanStep (after .displayStep { State.reset with nq := [(5, 30)] })).shown.map
      (fun p => (p.1, wordOfBits p.2)) = some (0, 0xFBEF87DF) := by decide +kernel
/-- Scan row 0 has column 0 lit; the default wiring lights LED rows 0 and 12 there, and not row 1 (log 27). -/
theorem test_leds :
    (after .scanStep (after .displayStep { State.reset with nq := [(5, 30)] })).ledLit 12 0 = true ∧
    (after .scanStep (after .displayStep { State.reset with nq := [(5, 30)] })).ledLit 1 0 = false ∧
    (after .scanStep (after .displayStep { State.reset with nq := [(5, 30)] })).ledLit 0 5 = false := by decide +kernel
theorem test_scan_step_wraps : (after .scanStep { State.reset with srow := 3 }).srow = 0 ∧
    (after .scanStep { State.reset with srow := 3 }).pt.length = 101 := by decide +kernel
theorem test_kick : (after (.kick .logger) { State.reset with now := 100 }).lt.logger = 100 := by decide
/-- R166: an age of 950 with THRESH 900 starves the watchdog -/
theorem test_supervisor_starves :
    (after .supervisorCycle { State.reset with
      now := 1000, lt := ⟨950, 50, 990, 0⟩, wdtRun := true, wdtCnt := 10 }).wdtCnt = 10 := by decide
theorem test_supervisor_feeds :
    (after .supervisorCycle { State.reset with
      now := 1000, lt := ⟨950, 101, 990, 0⟩, wdtRun := true, wdtCnt := 10 }).wdtCnt = 1000 := by decide
theorem test_watchdog_init_once : (after (.watchdogInit 5) (after (.watchdogInit 1000) .reset)).wdtCnt = 1000 := by
  decide
theorem test_watchdog_kick_stopped : (after .watchdogKick .reset).wdtCnt = 0 := by decide
theorem test_time_advance : (after (.timeAdvance 999) (after (.watchdogInit 1000) .reset)).wdtCnt = 1 := by
  decide
/-- Expiry: the register table is reset and the reply trace marked (70_reset_and_hazards.md R177). -/
theorem test_time_advance_expires :
    (after (.timeAdvance 1000) (after (.watchdogInit 1000) (after (.write 2 2024) .reset))).regAt 2 = 1970 ∧
    (after (.timeAdvance 1000) (after (.watchdogInit 1000) .reset)).rt = [.reset] := by decide

/-- 20_memory.md R61: after the read of PROTO, a kick of LOGGER comes in time for its read. -/
theorem test_supervise_interrupted : (superviseRead (superviseRead (superviseRead (after (.kick .logger) (superviseRead
    { State.reset with now := 1000, lt := ⟨950, 50, 990, 0⟩, wdtRun := true, wdtCnt := 10 }))))).wdtCnt = 1000 := by
  decide
/-- The slot read first is judged before the clock moves, and the one read last after it. -/
theorem test_supervise_clock_between : (superviseRead (superviseRead (superviseRead (after (.timeAdvance 9) (superviseRead
    { State.reset with now := 1000, lt := ⟨101, 1000, 109, 0⟩, wdtRun := true, wdtCnt := 10 }))))).wdtCnt = 1 := by
  decide
/-- A fold as a table: the two logical rows of column 0 that 43_scan_engine.md R144 names, ORed in scan row 0. -/
def tableFold : Fold := .other 1 [[.or (.pixel 0 0) (.pixel 8 0)], [.const false], [.const false], [.const false]]
theorem test_fold_table : configLegal { Config.default with fold := tableFold } = true ∧
    foldRow { Config.default with fold := tableFold } (bitmapLight (Bitmap.blank 32) 8 0) 0 = [true] ∧
    foldRow { Config.default with fold := tableFold } (bitmapLight (Bitmap.blank 32) 4 0) 0 = [false] := by decide

/-! ## Witnesses of the hypotheses of the obligations -/

/-- A frame whose operation changes the time (W3). -/
def frameW3 : List Byte := [0x00, 0x0A, 0x00, 0x00, 0x00, 0x06, 0x01, 0x06, 0x00, 0x00, 0x00, 0x07]

/-- A running watchdog, freshly kicked. -/
def running : State := { State.reset with wdtRun := true, wdtCnt := 1000 }

/-- The state after reset with a watchdog timeout of 5. -/
def shortTimeout : State := withCfg { Config.default with wdtTimeout := 5, wdtMargin := 1 }

theorem witness_DecodeInvertsEncode : (Instr.timeAdvance 1).wellFormed = true ∧ (Instr.readBlock 0 1).wellFormed = true ∧
    (Instr.writeMultiple ⟨0, 0⟩ (some ⟨0, 123, 246, List.replicate 246 0⟩)).wellFormed = true := by decide +kernel
theorem witness_CommandFramesDecode : (List.replicate 123 (0 : U16)).length ≤ 123 ∧
    (0x00 : Byte) ≠ 0x03 ∧ (0x00 : Byte) ≠ 0x06 ∧ (0x00 : Byte) ≠ 0x10 ∧ (List.replicate 251 (0 : Byte)).length ≤ 251 := by
  decide +kernel
theorem witness_StepRunsDecodedRequest :
    State.reset.fault = none ∧ configLegal State.reset.cfg = true ∧
    ({ State.reset with pending := [.operation (.port [0xB1])] } : State).pending = .operation (.port [0xB1]) :: [] ∧
    decodeRequest (.port [0xB1]) = .ok .publish := ⟨rfl, by decide, rfl, rfl⟩
theorem witness_FetchedWordRunsNext : State.reset.fault = none ∧ configLegal State.reset.cfg = true ∧
    decodeTableWord 8 0xC0 = some .scanStep := ⟨rfl, by decide, rfl⟩
theorem witness_IdleStepChangesNothing : State.reset.fault = none ∧ configLegal State.reset.cfg = true ∧
    State.reset.pending = [] := ⟨rfl, by decide, rfl⟩
theorem witness_UnknownSelectorsAreRefused :
    ({ State.reset with pending := [.operation (.port [0xA8])] } : State).pending = .operation (.port (0xA8 :: [])) :: [] ∧
    (0xA8 : Byte).toNat ∉ [0xA0, 0xA1, 0xA2, 0xA3, 0xA4, 0xA5, 0xA6, 0xA7, 0xB0, 0xB1, 0xB2, 0xC0, 0xD0, 0xD1, 0xD2, 0xD3,
      0xE0, 0xE1, 0xE2, 0xE3, 0xF0] ∧ State.reset.fault = none ∧ configLegal State.reset.cfg = true :=
  ⟨rfl, by decide, rfl, by decide⟩
theorem witness_IllegalConfigurationIsRefused :
    (withCfg { Config.default with mirror := true }).cfg.mirror = true ∧
    (withCfg { Config.default with swap := true }).cfg.swap = true ∧
    ((withCfg { Config.default with addrLines := 4 }).cfg.addrLines ≠ 2 ∧
      (withCfg { Config.default with addrLines := 4 }).cfg.addrLines ≠ 3) ∧
    (withCfg { Config.default with panelW := 0 }).cfg.width = 0 ∧
    (withCfg { Config.default with bufCap := 258 }).cfg.bufCap < 259 ∧
    (withCfg { Config.default with nqDepth := 0 }).cfg.nqDepth = 0 ∧
    (withCfg { Config.default with wdtMargin := 1000 }).cfg.wdtTimeout ≤
      (withCfg { Config.default with wdtMargin := 1000 }).cfg.wdtMargin ∧
    ([] : List (List PixelExpr)).length ≠ (withCfg { Config.default with fold := .other 1 [] }).cfg.scanRows ∧
    ([PixelExpr.const true, .const true] : List PixelExpr).length ≠ 1 ∧
    ∀ c, (withCfg c).fault = none := ⟨rfl, rfl, by decide, rfl, by decide, rfl, by decide, by decide, by decide, fun _ => rfl⟩
theorem witness_ResetGivesTheTable :
    (∃ cfg now rb wdtCnt, State.reset = State.boot cfg now rb wdtCnt) ∧
    Expires 1000 running ∧ exec (.timeAdvance 1000) running = .next (after (.timeAdvance 1000) running) :=
  ⟨⟨_, _, _, _, rfl⟩, by decide, rfl⟩
theorem witness_PowerOnState : State.reset = State.boot Config.default 0 (Bitmap.blank 32) 0 := rfl
theorem witness_ReadReturnsTheRegister : 31 < 32 ∧ 32 ≤ 32 := by decide
theorem witness_ReadBlockReturnsTheRange : (1 ≤ 32 ∧ 0 + 32 ≤ 32) ∧ (1 ≤ 2 ∧ 32 < 31 + 2) := by decide
theorem witness_WriteBlockStoresTheRange :
    (([7] : List U16) ≠ [] ∧ 31 + ([7] : List U16).length ≤ 32) ∧
    (([7, 8] : List U16) ≠ [] ∧ 32 < 31 + ([7, 8] : List U16).length) := by decide
theorem witness_WritesAreIdempotent : ([7] : List U16) ≠ [] := by decide
theorem witness_BlockWriteReadsBack :
    ([7] : List U16) ≠ [] ∧ 31 + ([7] : List U16).length ≤ 32 ∧
    (∀ i ∈ [Instr.getTime, .scanStep], mayWriteRegisters i = false) ∧
    execAll [.getTime, .scanStep] State.reset = .next (after .scanStep (after .getTime .reset)) ∧
    resetCount (after .scanStep (after .getTime .reset)) = resetCount State.reset :=
  ⟨by decide, by decide, by decide, rfl, by decide⟩
theorem witness_ConsumeReturnsAndClears :
    (after (.write 1 30) .reset).tl.dirty = true ∧ State.reset.tl.dirty = false := by decide
theorem witness_ReadRegistersReplies :
    (0 : U16).toNat = 0 ∧ 126 ≤ (126 : U16).toNat ∧
    (1 ≤ (125 : U16).toNat ∧ (125 : U16).toNat ≤ 125 ∧ 32 < (0 : U16).toNat + (125 : U16).toNat) ∧
    (1 ≤ (32 : U16).toNat ∧ (0 : U16).toNat + (32 : U16).toNat ≤ 32) := by decide
theorem witness_WriteSingleEffect : 32 ≤ (32 : U16).toNat ∧ (31 : U16).toNat < 32 := by decide
theorem witness_WriteMultipleEffect :
    ((0 : U16).toNat = 0 ∧ 124 ≤ (124 : U16).toNat ∧ (3 : Byte).toNat ≠ 2 * (2 : U16).toNat ∧
      ([0, 5] : List Byte).length < (4 : Byte).toNat) ∧
    (1 ≤ (1 : U16).toNat ∧ (1 : U16).toNat ≤ 123 ∧ (2 : Byte).toNat = 2 * (1 : U16).toNat ∧
      (2 : Byte).toNat ≤ ([0, 5] : List Byte).length ∧ 32 < (32 : U16).toNat + (1 : U16).toNat ∧
      (31 : U16).toNat + (1 : U16).toNat ≤ 32) := by decide
theorem witness_OneReplyPerCommand :
    PduParses [0x03, 0, 0, 0, 1] ∧ PduParses [0x10, 0, 0, 0, 1, 2] ∧ PduParses [0x00] ∧
    ¬ PduParses [0x03, 0, 0, 0] ∧ ¬ PduParses [0x10, 0, 0, 0, 1] ∧ ([0x03, 0, 0, 0, 1] : List Byte).length ≤ 252 := by
  decide
theorem witness_ReceiveChunkFraming :
    opened.conn = .opened ∧ opened.cfg.bufCap < opened.buf.length + (List.replicate 261 (0 : Byte)).length ∧
    opened.buf.length + (List.replicate 260 (0 : Byte)).length ≤ opened.cfg.bufCap ∧
    (opened.buf ++ [0x00, 0x01, 0x00, 0x01, 0x00, 0x06]).length < 7 ∧
    (be16 0 1 ≠ 0 ∧ (be16 0 1).toNat < 2 ∧ 253 < (be16 0 254).toNat) ∧
    (be16 0 0 = 0 ∧ 2 ≤ (be16 0 253).toNat ∧ (be16 0 253).toNat ≤ 253 ∧
      (opened.buf ++ [0, 0, 0, 0, 0, 253, 1, 3]).length < 6 + (be16 0 253).toNat) := by decide +kernel
theorem witness_ChunkRunsItsCommandsInOrder :
    opened.conn = .opened ∧ opened.buf.length + (frameW3 ++ [0, 0]).length ≤ opened.cfg.bufCap ∧
    PduParses [0x06, 0, 0, 0, 7] ∧
    opened.buf ++ (frameW3 ++ [0, 0]) = [((⟨10, 1⟩ : FrameHead), (0x06 : Byte), ([0, 0, 0, 7] : List Byte))].flatMap (fun f =>
      bytes16 f.1.tid ++ [0, 0] ++ bytes16 (BitVec.ofNat 16 (2 + f.2.2.length)) ++ [f.1.uid, f.2.1] ++ f.2.2) ++ [0, 0] ∧
    detectFrame [0, 0] = .wait ∧ detectFrame [0, 0, 0, 1, 0, 2, 1] = .bad ∧
    detectFrame [0, 0, 0, 0, 0, 2, 1, 3] = .frame ⟨0, 1⟩ 0x03 [] [] ∧ ¬ PduParses [0x03] := by decide
theorem witness_FragmentationDoesNotMatter :
    opened.conn = .opened ∧ opened.buf = [] ∧ 259 ≤ opened.cfg.bufCap ∧ 2 ≤ (be16 0 2).toNat ∧ (be16 0 2).toNat ≤ 253 ∧
    ([0x04] : List Byte).length + 1 = (be16 0 2).toNat ∧ 0 < 7 ∧ 7 < 7 + ([0x04] : List Byte).length := by decide
theorem witness_ConnectionSteps : State.reset.conn = .closed ∧ opened.conn = .opened := ⟨rfl, rfl⟩
theorem witness_RenderClampsItsOperands : 999 < (1000 : U16).toNat ∧ 59 < (60 : U16).toNat := by decide
theorem witness_DisplayStepRendersTheOldest :
    State.reset.nq = [] ∧ ({ State.reset with nq := [(5, 30)] } : State).nq = (5, 30) :: [] := ⟨rfl, rfl⟩
theorem witness_OnlyPublicationChangesTheBitmap :
    exec .publish (after (.render 5 30) .reset) = .next (after .publish (after (.render 5 30) .reset)) ∧
    (after .publish (after (.render 5 30) .reset)).pb ≠ (after (.render 5 30) .reset).pb := ⟨rfl, by decide +kernel⟩
/-- A schedule of the block's own, whose step publishes. -/
theorem witness_OnlyPublicationChangesTheBitmap_block :
    BlockSchedule { State.reset with nq := [(5, 30)], pending := [.operation (.port [0xB2])] } ∧
    step { State.reset with nq := [(5, 30)], pending := [.operation (.port [0xB2])] }
      = .next (after .displayStep { State.reset with nq := [(5, 30)] }) ∧
    (after .displayStep { State.reset with nq := [(5, 30)] }).pb ≠ State.reset.pb :=
  ⟨⟨rfl, fun _ _ => trivial⟩, rfl, by decide +kernel⟩
theorem witness_DisplayAndScanIgnoreRegisters :
    .display ∈ agentsOf (.render 5 30) ∧ .display ∈ agentsOf (.kick .display) ∧ .scan ∈ agentsOf .scanStep := by decide
/-- 40_register_file.md R89: DISPLAY and SCAN call no register-file operation. -/
theorem test_display_and_scan_call_no_register_operation (g : Agent) (hg : g = .display ∨ g = .scan) :
    g ∉ agentsOf (.read 0) ∧ g ∉ agentsOf (.readBlock 0 1) ∧ g ∉ agentsOf (.write 0 0) ∧ g ∉ agentsOf (.writeBlock 0 [0]) ∧
    g ∉ agentsOf .consumeChangedTime ∧ g ∉ agentsOf .getTime ∧ g ∉ agentsOf .getDate ∧ g ∉ agentsOf .getLogEnable := by
  rcases hg with rfl | rfl <;> decide
theorem witness_ScanStepEmitsTheSequence :
    (∀ d, State.reset.cfg.scanStepNs = some d → d * State.reset.cfg.fScan < 1000000000) ∧
    (∀ d, (withCfg { Config.default with scanStepNs := some 249999 }).cfg.scanStepNs = some d →
      d * (withCfg { Config.default with scanStepNs := some 249999 }).cfg.fScan < 1000000000) :=
  ⟨fun _ h => by simp [State.reset, State.boot, Config.default] at h,
    fun d h => by simp [withCfg, Config.default] at h ⊢; omega⟩
theorem witness_ShiftSequenceFoldsAndOrders : 31 < Config.default.shiftLen ∧ Config.default.fold = .mod ∧
    Config.default.bitOrder = .msbFirst ∧
    ({ Config.default with bitOrder := .reversed } : Config).bitOrder = .reversed := by decide
theorem witness_ShiftSequenceFoldsAndOrders_table :
    0 < ({ Config.default with fold := tableFold } : Config).shiftLen ∧
    [[PixelExpr.or (.pixel 0 0) (.pixel 8 0)], [.const false], [.const false], [.const false]][0]?
      = some [PixelExpr.or (.pixel 0 0) (.pixel 8 0)] ∧
    [PixelExpr.or (.pixel 0 0) (.pixel 8 0)][0]? = some (PixelExpr.or (.pixel 0 0) (.pixel 8 0)) := by decide
theorem witness_FoldModCoversEveryRow :
    Config.default.fold = .mod ∧ 31 < Config.default.width ∧
    bitmapGet (renderBitmap Config.default 5 30) 4 1 = true := by decide +kernel
theorem witness_ScanStepStaysBlanked :
    exec .scanStep State.reset = .next (after .scanStep .reset) ∧
    (after .scanStep .reset).pt = State.reset.pt
      ++ (scanEvents 0 (shiftSeq Config.default (Bitmap.blank 32) 0)).map .item ∧
    scanEvents 0 (shiftSeq Config.default (Bitmap.blank 32) 0) =
      [.oe false] ++ .addr 0 :: (scanEvents 0 (shiftSeq Config.default (Bitmap.blank 32) 0)).drop 2 ∧
    scanEvents 0 (shiftSeq Config.default (Bitmap.blank 32) 0) =
      (scanEvents 0 (shiftSeq Config.default (Bitmap.blank 32) 0)).take 100 ++ .oe true :: [] :=
  ⟨rfl, by decide +kernel, by decide +kernel, by decide +kernel⟩
theorem witness_ScanStepShowsTheRow :
    State.reset.pins.clk = false ∧ State.reset.pins.lat = false ∧
    State.reset.panel.sr.length = State.reset.cfg.shiftLen ∧
    exec .scanStep State.reset = .next (after .scanStep .reset) := ⟨rfl, rfl, by decide, rfl⟩
theorem witness_OnlyScanStepsChangeTheDisplay :
    exec (.timeAdvance 999) running = .next (after (.timeAdvance 999) running) ∧
    (Instr.timeAdvance 999 ≠ .scanStep) ∧ ¬ Expires 999 running := ⟨rfl, by decide, by decide⟩
theorem witness_ScanStepsGoRound : ({ State.reset with srow := 3 } : State).srow < State.reset.cfg.scanRows ∧ 1 ≤ 1 := by
  decide
theorem witness_ScanOverrunFaults :
    (withCfg { Config.default with scanStepNs := some 250000 }).cfg.scanStepNs = some 250000 ∧
    1000000000 ≤ 250000 * (withCfg { Config.default with scanStepNs := some 250000 }).cfg.fScan := by decide
theorem witness_KickRecordsNow : Slot.logger ≠ Slot.proto := by decide
theorem witness_SupervisorKicksWhenHealthy :
    (∀ slot, slot ≠ .supervisor → ({ State.reset with now := 899 } : State).now - State.reset.lt.get slot
      < State.reset.cfg.wdtTimeout - State.reset.cfg.wdtMargin) ∧
    State.reset.cfg.wdtMargin < State.reset.cfg.wdtTimeout ∧
    (∃ slot, slot ≠ .supervisor ∧ State.reset.cfg.wdtTimeout - State.reset.cfg.wdtMargin
      ≤ ({ State.reset with now := 900 } : State).now - State.reset.lt.get slot) :=
  ⟨fun slot _ => by cases slot <;> decide, by decide, .logger, by decide, by decide⟩
/-- The reads: the first, one that is not the last, the last, and four together. -/
theorem witness_SupervisorKicksWhenHealthy_reads :
    running.fault = none ∧ configLegal running.cfg = true ∧ running.sup = none ∧
    ({ running with pending := [.superviseRead] } : State).pending = .superviseRead :: [] ∧
    ({ running with sup := some ⟨.display, [.supervisor], true⟩ } : State).sup = some ⟨.display, .supervisor :: [], true⟩ ∧
    ({ running with sup := some ⟨.supervisor, [], true⟩ } : State).sup = some ⟨.supervisor, [], true⟩ ∧
    ({ running with pending := List.replicate 4 .superviseRead } : State).pending
      = .superviseRead :: .superviseRead :: .superviseRead :: .superviseRead :: [] :=
  ⟨rfl, by decide, rfl, rfl, rfl, rfl, rfl⟩
theorem witness_WatchdogInitAndKick : State.reset.wdtRun = false ∧ running.wdtRun = true := ⟨rfl, rfl⟩
/-- The supervisor's first step after reset and a cycle after it (70_reset_and_hazards.md R182). -/
theorem witness_WatchdogInitAndKick_block :
    BlockSchedule { shortTimeout with pending := [.operation (.port [0xE2, 5]), .operation (.port [0xE1])] } ∧
    step { shortTimeout with pending := [.operation (.port [0xE2, 5]), .operation (.port [0xE1])] }
      = .next { after (.watchdogInit 5) shortTimeout with pending := [.operation (.port [0xE1])] } ∧
    shortTimeout.wdtRun = false ∧ CountdownInRange shortTimeout ∧ CountdownInRange running :=
  ⟨⟨rfl, fun t h => by cases h; exact ⟨rfl, fun _ _ => trivial⟩⟩, rfl, rfl,
    fun h => by simp [shortTimeout, withCfg, State.reset, State.boot] at h, fun _ => by decide⟩
theorem witness_TimeAdvanceCountsDown :
    State.reset.wdtRun = false ∧ (running.wdtRun = true ∧ 999 < running.wdtCnt) ∧ running.wdtCnt ≤ 1000 := by decide
theorem witness_ExpiryResetsTheBlock : Expires 1000 running := by decide
theorem witness_StarvedWatchdogExpires :
    running.wdtRun = true ∧ 0 < running.wdtCnt ∧ running.wdtCnt ≤ running.cfg.wdtTimeout ∧
    running.lt.get .logger = running.now ∧
    (∀ i ∈ [Instr.timeAdvance 500, .supervisorCycle, .timeAdvance 999], kicks .logger i = false ∧ i ≠ .watchdogKick) ∧
    execAll [.timeAdvance 500, .supervisorCycle] running = .next (after .supervisorCycle (after (.timeAdvance 500) running)) ∧
    resetCount (after .supervisorCycle (after (.timeAdvance 500) running)) = resetCount running :=
  ⟨rfl, by decide, by decide, rfl, by decide, rfl, by decide⟩
theorem witness_FedWatchdogNeverExpires :
    running.wdtRun = true ∧ running.wdtCnt = running.cfg.wdtTimeout ∧ running.lt.supervisor = running.now ∧
    running.cfg.wdtMargin < running.cfg.wdtTimeout ∧ Instr.kick .supervisor ∉ [Instr.timeAdvance 999] ∧
    (∀ pre i post u, [Instr.timeAdvance 999] = pre ++ i :: post → execAll pre running = .next u →
      (i = .supervisorCycle → ∀ slot, slot ≠ .supervisor → u.now - u.lt.get slot < u.cfg.thresh) ∧
      (∀ d, i = .timeAdvance d → u.now + d - u.lt.supervisor < u.cfg.wdtTimeout)) ∧
    execAll [.timeAdvance 999] running = .next (after (.timeAdvance 999) running) := by
  refine ⟨rfl, rfl, rfl, by decide, by decide, fun pre i post u h hu => ?_, rfl⟩
  cases pre with
  | nil =>
    simp only [List.nil_append, List.cons.injEq] at h
    obtain ⟨rfl, rfl⟩ := h
    cases hu
    exact ⟨fun h => by simp at h, fun d h => by cases h; decide⟩
  | cons j pre => simp at h
theorem witness_ConfigurationNeverChanges : step State.reset = .next State.reset := rfl
theorem witness_TimeMovesOnlyByTheClock :
    exec (.timeAdvance 1) State.reset = .next (after (.timeAdvance 1) .reset) ∧
    (after (.timeAdvance 1) .reset).now ≠ State.reset.now := ⟨rfl, by decide⟩
theorem witness_FaultAndWatchdogPersist :
    exec .publish { running with fault := some .scanOverrun } = .next (after .publish { running with fault := some .scanOverrun }) ∧
    (∀ d, Instr.publish = .timeAdvance d → ¬ Expires d running) ∧
    ({ running with fault := some .scanOverrun } : State).fault ≠ none ∧ running.wdtRun = true :=
  ⟨rfl, fun _ h => by simp at h, by decide, rfl⟩
theorem witness_DirtyUntilConsumed :
    exec .consumeChangedTime (after (.write 1 30) .reset) = .next (after .consumeChangedTime (after (.write 1 30) .reset)) ∧
    (after (.write 1 30) .reset).tl.dirty = true ∧
    (after .consumeChangedTime (after (.write 1 30) .reset)).tl.dirty = false :=
  ⟨rfl, by decide, by decide⟩
theorem witness_LatchCleanBetweenBlockSteps :
    (∀ a v, Instr.receiveChunk frameW3 ≠ .write a v) ∧ (∀ a vs, Instr.receiveChunk frameW3 ≠ .writeBlock a vs) ∧
    opened.tl.dirty = false ∧ exec (.receiveChunk frameW3) opened = .next (after (.receiveChunk frameW3) opened) ∧
    BlockSchedule { opened with pending := [.operation (.port (0xD0 :: frameW3))] } ∧
    step { opened with pending := [.operation (.port (0xD0 :: frameW3))] }
      = .next (after (.receiveChunk frameW3) opened) :=
  ⟨by simp, by simp, rfl, rfl, ⟨rfl, fun _ _ => trivial⟩, rfl⟩
theorem witness_OnlyWritesChangeRegisters :
    exec (.receiveChunk frameW3) opened = .next (after (.receiveChunk frameW3) opened) ∧
    (after (.receiveChunk frameW3) opened).reg ≠ opened.reg := ⟨rfl, by decide⟩
theorem witness_NotificationQueueIsBoundedFifo :
    exec (.receiveChunk frameW3) opened = .next (after (.receiveChunk frameW3) opened) ∧
    (∀ d, Instr.receiveChunk frameW3 = .timeAdvance d → ¬ Expires d opened) ∧
    Instr.receiveChunk frameW3 ≠ .displayStep ∧ (after (.receiveChunk frameW3) opened).nq = opened.nq ++ [(7, 0)] :=
  ⟨rfl, fun _ h => by simp at h, by decide, by decide⟩
/-- A state with the invariant, in which a chunk is scheduled and a step answers a next state. -/
theorem witness_StepKeepsTheInvariant :
    Inv { opened with pending := [.operation (.port (0xD0 :: frameW3))] } ∧
    step { opened with pending := [.operation (.port (0xD0 :: frameW3))] } = .next (after (.receiveChunk frameW3) opened) :=
  ⟨{ latch := ⟨rfl, rfl⟩, published := blank_shaped _, buffer := blank_shaped _, row := by decide, address := by decide
     clockLow := rfl, latchLow := rfl, shifted := by decide, latched := by decide, bufferBound := by decide, waiting := rfl
     closedEmpty := fun h => by simp [opened] at h
     queueBound := by decide, cycleOrder := fun _ h => by simp [opened, State.reset, State.boot] at h
     slotsPast := fun slot => by cases slot <;> decide }, rfl⟩

end Sys2Proof.Tests
end

section
/-! O52: the configuration is fixed while the block runs (00_scope.md R9). What each operation of the block does to
`cfg`, then an operation, a turn and a step. -/

namespace Sys2Proof.Machine

@[simp] theorem displayWork_cfg (s : State) : (displayWork s).cfg = s.cfg := by rw [displayWork_eq]

@[simp] theorem noteOverrun_scanRow_cfg (s : State) : (noteOverrun (scanRow s)).cfg = s.cfg := by
  rw [noteOverrun_scanRow_eq]

@[simp] theorem superviseOnce_cfg (s : State) : (superviseOnce s).cfg = s.cfg := by rw [superviseOnce_eq]

@[simp] theorem startWatchdog_cfg (t : Nat) (s : State) : (startWatchdog t s).cfg = s.cfg := by
  unfold startWatchdog
  split <;> rfl

/-- The clock keeps the configuration, also when it forces the block reset (70_reset_and_hazards.md R177). -/
@[simp] theorem advanceTime_cfg (d : Nat) (s : State) : (advanceTime d s).cfg = s.cfg := by
  by_cases hx : Expires d s
  · rw [advanceTime_expires hx, blockReset_cfg]
  · rw [advanceTime_eq hx]

/-- No operation changes the configuration (00_scope.md R9). -/
theorem exec_cfg {i : Instr} {s t : State} (h : exec i s = .next t) : t.cfg = s.cfg := by
  cases exec_effect h with
  | command hd p => exact (runPdu_keeps hd p _).cfg
  | write a v ha => simp
  | writeBlock a vs ha => simp
  | display => simp
  | scan => exact noteOverrun_scanRow_cfg s
  | chunk c ho => exact (acceptChunk_keeps c _).cfg
  | supervise => exact superviseOnce_cfg s
  | init d => exact startWatchdog_cfg d s
  | advance d => exact advanceTime_cfg d s
  | answer | consume | render | publish | blocked | connect | disconnect | kick | reload => rfl

/-- No turn changes the configuration: neither an operation nor a single read of the supervisor. -/
theorem takeTurn_cfg {u : Turn} {s t : State} (h : takeTurn u s = .next t) : t.cfg = s.cfg := by
  obtain ⟨r, i, -, -, h⟩ | ⟨-, rfl⟩ := takeTurn_next h
  · exact exec_cfg h
  · exact superviseRead_cfg s

/-- Settles O52: a step that answers a next state was idle or took one turn, and no turn changes the configuration. -/
theorem configurationNeverChanges : Obligations.ConfigurationNeverChanges := by
  intro s t h
  obtain ⟨-, -, ⟨-, rfl⟩ | ⟨u, more, -, hturn⟩⟩ := step_next_turn h
  · rfl
  · have hcfg := takeTurn_cfg hturn
    exact hcfg

end Sys2Proof.Machine
end

section
/-! Frames. What the composite operations of the block leave unchanged and what they make of the fields that the state
statements speak of (10_state.md): one lemma per operation and field, from the equations of Laws/Step.lean. -/

namespace Sys2Proof.Machine

/-- The first WATCHDOG_INIT starts the countdown and a later one changes nothing (60_exceptions.md R167). -/
theorem startWatchdog_eq (n : Nat) (s : State) :
    startWatchdog n s = { s with wdtRun := true, wdtCnt := if s.wdtRun = true then s.wdtCnt else n } := by
  unfold startWatchdog
  cases s with
  | mk _ _ _ _ _ _ _ _ _ _ _ _ _ _ _ _ run => cases run <;> rfl

/-! ### displayWork -/

@[simp] theorem displayWork_tl (s : State) : (displayWork s).tl = s.tl := by rw [displayWork_eq]
@[simp] theorem displayWork_nq (s : State) : (displayWork s).nq = s.nq.tail := by rw [displayWork_eq]
@[simp] theorem displayWork_now (s : State) : (displayWork s).now = s.now := by rw [displayWork_eq]
@[simp] theorem displayWork_wdtRun (s : State) : (displayWork s).wdtRun = s.wdtRun := by rw [displayWork_eq]
@[simp] theorem displayWork_fault (s : State) : (displayWork s).fault = s.fault := by rw [displayWork_eq]

/-- Without a notification the display task does nothing (42_display_render.md R136). -/
theorem displayWork_of_nq_nil {s : State} (h : s.nq = []) : displayWork s = s := by
  unfold displayWork
  rw [h]

/-! ### SCAN_STEP -/

@[simp] theorem noteOverrun_scanRow_tl (s : State) : (noteOverrun (scanRow s)).tl = s.tl := by
  rw [noteOverrun_scanRow_eq]
@[simp] theorem noteOverrun_scanRow_pb (s : State) : (noteOverrun (scanRow s)).pb = s.pb := by
  rw [noteOverrun_scanRow_eq]
@[simp] theorem noteOverrun_scanRow_nq (s : State) : (noteOverrun (scanRow s)).nq = s.nq := by
  rw [noteOverrun_scanRow_eq]
@[simp] theorem noteOverrun_scanRow_now (s : State) : (noteOverrun (scanRow s)).now = s.now := by
  rw [noteOverrun_scanRow_eq]
@[simp] theorem noteOverrun_scanRow_wdtRun (s : State) : (noteOverrun (scanRow s)).wdtRun = s.wdtRun := by
  rw [noteOverrun_scanRow_eq]

@[simp] theorem scanRow_fault (s : State) : (scanRow s).fault = s.fault := emitAll_fault s _

/-- A scan row touches SROW, the pins, the panel and PT (43_scan_engine.md R146). -/
theorem scanRow_eq (s : State) : scanRow s = { s with
    srow := (s.srow + 1) % s.cfg.scanRows
    pins := (scanRow s).pins
    panel := (scanRow s).panel
    pt := s.pt ++ (scanEvents s.srow (shiftSeq s.cfg s.pb s.srow)).map .item } := by
  unfold scanRow
  rw [emitAll_eq]

/-- A scan row leaves OE on, ADDR at its row, DATA at the last bit, and CLK and LAT low (43_scan_engine.md R146). -/
theorem scanRow_pins (s : State) (hclk : s.pins.clk = false) (hsr : s.panel.sr.length = s.cfg.shiftLen) :
    (scanRow s).pins =
      ⟨true, s.srow, (shiftSeq s.cfg s.pb s.srow).getLast?.getD s.pins.data, false, false⟩ := by
  have hrow : (scanRow s).pins = (emitAll s (scanEvents s.srow (shiftSeq s.cfg s.pb s.srow))).pins := rfl
  obtain ⟨hbits, -, -⟩ :=
    emitAll_bits (shiftSeq s.cfg s.pb s.srow) (emitAll s [.oe false, .addr s.srow]) hclk hsr
  rw [hrow, scanEvents, emitAll_append, emitAll_append, emitAll_pins, hbits]
  simp [Pins.drive, hclk]

/-- A scan step sets FAULT or leaves it (70_reset_and_hazards.md R189). -/
theorem noteOverrun_fault (s : State) :
    (noteOverrun s).fault = if scanOverruns s.cfg then some .scanOverrun else s.fault := by
  unfold noteOverrun
  split <;> rfl

/-! ### The supervisor and the watchdog -/

@[simp] theorem superviseOnce_tl (s : State) : (superviseOnce s).tl = s.tl := by rw [superviseOnce_eq]
@[simp] theorem superviseOnce_pb (s : State) : (superviseOnce s).pb = s.pb := by rw [superviseOnce_eq]
@[simp] theorem superviseOnce_nq (s : State) : (superviseOnce s).nq = s.nq := by rw [superviseOnce_eq]
@[simp] theorem superviseOnce_now (s : State) : (superviseOnce s).now = s.now := by rw [superviseOnce_eq]
@[simp] theorem superviseOnce_wdtRun (s : State) : (superviseOnce s).wdtRun = s.wdtRun := by rw [superviseOnce_eq]
@[simp] theorem superviseOnce_fault (s : State) : (superviseOnce s).fault = s.fault := by rw [superviseOnce_eq]

@[simp] theorem startWatchdog_tl (n : Nat) (s : State) : (startWatchdog n s).tl = s.tl := by rw [startWatchdog_eq]
@[simp] theorem startWatchdog_pb (n : Nat) (s : State) : (startWatchdog n s).pb = s.pb := by rw [startWatchdog_eq]
@[simp] theorem startWatchdog_nq (n : Nat) (s : State) : (startWatchdog n s).nq = s.nq := by rw [startWatchdog_eq]
@[simp] theorem startWatchdog_now (n : Nat) (s : State) : (startWatchdog n s).now = s.now := by rw [startWatchdog_eq]
@[simp] theorem startWatchdog_wdtRun (n : Nat) (s : State) : (startWatchdog n s).wdtRun = true := by
  rw [startWatchdog_eq]
@[simp] theorem startWatchdog_fault (n : Nat) (s : State) : (startWatchdog n s).fault = s.fault := by
  rw [startWatchdog_eq]

/-- The clock moves `now` by d whether the watchdog expires or not (60_exceptions.md R169, R170). -/
@[simp] theorem advanceTime_now (d : Nat) (s : State) : (advanceTime d s).now = s.now + d := by
  by_cases hx : Expires d s
  · rw [advanceTime_expires hx, blockReset_now]
  · rw [advanceTime_eq hx]

/-! ### The latch -/

/-- LatchEval, and so a write, never clears a dirty latch (40_register_file.md R99). -/
theorem storeAndEval_dirty (a : Nat) (vs : List U16) {s : State} (h : s.tl.dirty = true) :
    (storeAndEval a vs s).tl.dirty = true := by
  rw [storeAndEval_tl]
  split
  · simp [TimeLatch.eval_eq, h]
  · exact h

/-- The read command does not touch the latch (41_host_commands.md R111). -/
theorem runReadRegisters_tl (h : FrameHead) (req : Option ReadReq) (s : State) :
    (runReadRegisters h req s).tl = s.tl := by
  cases req with
  | none => rfl
  | some r =>
    simp only [runReadRegisters]
    split
    · rfl
    · split <;> rfl

end Sys2Proof.Machine
end

section
/-! What may change a field of the state (10_state.md): one case for each effect of an operation (Laws/Step.lean). -/

namespace Sys2Proof.Machine

/-- `now` moves by d at a TIME_ADVANCE d and is kept by every other operation (10_state.md R37). -/
theorem exec_now {i : Instr} {s t : State} (h : exec i s = .next t) :
    (∃ d, i = .timeAdvance d ∧ t.now = s.now + d) ∨ t.now = s.now := by
  cases exec_effect h with
  | advance d => exact .inl ⟨d, rfl, advanceTime_now d s⟩
  | command hd p => exact .inr (runPdu_keeps hd p _).now
  | chunk c ho => exact .inr (acceptChunk_keeps c _).now
  | write | writeBlock | display | scan | supervise | init => right; simp
  | answer | consume | render | publish | blocked | connect | disconnect | kick | reload => exact .inr rfl

/-- FAULT is cleared by no operation but an expiring TIME_ADVANCE (10_state.md R39). -/
theorem exec_fault_ne_none {i : Instr} {s t : State} (h : exec i s = .next t)
    (hx : ∀ d, i = .timeAdvance d → ¬ Expires d s) (hf : s.fault ≠ none) : t.fault ≠ none := by
  cases exec_effect h with
  | scan =>
    rw [noteOverrun_fault, scanRow_fault]
    split
    · simp
    · exact hf
  | advance d => rwa [advanceTime_eq (hx d rfl)]
  | command hd p => rwa [(runPdu_keeps hd p _).fault]
  | chunk c ho => rwa [kickSlot_fault, (acceptChunk_keeps c _).fault]
  | write | writeBlock | display | supervise | init => simpa using hf
  | answer | consume | render | publish | blocked | connect | disconnect | kick | reload => exact hf

/-- The running watchdog is stopped by no operation but an expiring TIME_ADVANCE (60_exceptions.md R167). -/
theorem exec_wdtRun {i : Instr} {s t : State} (h : exec i s = .next t)
    (hx : ∀ d, i = .timeAdvance d → ¬ Expires d s) (hr : s.wdtRun = true) : t.wdtRun = true := by
  cases exec_effect h with
  | init n => exact startWatchdog_wdtRun n s
  | advance d => rwa [advanceTime_eq (hx d rfl)]
  | command hd p => rwa [(runPdu_keeps hd p _).wdtRun]
  | chunk c ho => rwa [kickSlot_wdtRun, (acceptChunk_keeps c _).wdtRun]
  | write | writeBlock | display | scan | supervise => simpa using hr
  | answer | consume | render | publish | blocked | connect | disconnect | kick | reload => exact hr

/-- What may change the published bitmap (42_display_render.md R137). -/
theorem exec_pb {i : Instr} {s t : State} (h : exec i s = .next t) (hne : t.pb ≠ s.pb) :
    i = .publish ∨ (i = .displayStep ∧ s.nq ≠ []) ∨ ∃ d, i = .timeAdvance d ∧ Expires d s := by
  cases exec_effect h with
  | publish => exact .inl rfl
  | display =>
    refine .inr (.inl ⟨rfl, fun hq => hne ?_⟩)
    simp [displayWork_of_nq_nil hq]
  | advance d =>
    refine .inr (.inr ⟨d, rfl, ?_⟩)
    by_contra hx
    rw [advanceTime_eq hx] at hne
    exact hne rfl
  | command hd p => exact absurd (runPdu_keeps hd p _).pb hne
  | chunk c ho => exact absurd (acceptChunk_keeps c _).pb hne
  | write | writeBlock | scan | supervise | init => simp at hne
  | answer | consume | render | blocked | connect | disconnect | kick | reload => exact absurd rfl hne

/-- Only the two write commands touch the latch (41_host_commands.md R116). -/
theorem isWrite_of_runPdu_tl_ne (h : FrameHead) (p : Pdu) (s : State) (hne : (runPdu h p s).tl ≠ s.tl) :
    (∃ req, p = .writeSingle req) ∨ ∃ req, p = .writeMultiple req := by
  cases p with
  | read req => exact absurd (runReadRegisters_tl h req s) hne
  | writeSingle req => exact .inl ⟨req, rfl⟩
  | writeMultiple req => exact .inr ⟨req, rfl⟩
  | unsupported fc => exact absurd rfl hne

/-- Only DISPLAY_STEP takes a notification; every other operation appends within NQ_DEPTH, unless the watchdog expires
(10_state.md R34, 41_host_commands.md R117). -/
theorem exec_nq {i : Instr} {s t : State} (h : exec i s = .next t)
    (hx : ∀ d, i = .timeAdvance d → ¬ Expires d s) :
    (i = .displayStep ∧ t.nq = s.nq.tail) ∨
      (i ≠ .displayStep ∧ ∃ new, t.nq = s.nq ++ new ∧ (new ≠ [] → t.nq.length ≤ s.cfg.nqDepth)) := by
  have append_nil {u : State} (hu : u.nq = s.nq) :
      ∃ new, u.nq = s.nq ++ new ∧ (new ≠ [] → u.nq.length ≤ s.cfg.nqDepth) := ⟨[], by simp [hu]⟩
  cases exec_effect h with
  | display => exact .inl ⟨rfl, displayWork_nq s⟩
  | command hd p => exact .inr ⟨by cases p <;> simp [Pdu.instr], (runPdu_keeps hd p _).queue⟩
  | chunk c ho => exact .inr ⟨by simp, (acceptChunk_keeps c _).queue⟩
  | advance d => exact .inr ⟨by simp, append_nil (by rw [advanceTime_eq (hx d rfl)]; rfl)⟩
  | answer _ _ hdisp => exact .inr ⟨hdisp, append_nil rfl⟩
  | blocked _ hi =>
    refine .inr ⟨?_, append_nil rfl⟩
    obtain ⟨rfl, -⟩ | ⟨-, rfl | ⟨c, rfl⟩⟩ := hi <;> simp
  | kick _ slot hi =>
    refine .inr ⟨?_, append_nil rfl⟩
    obtain rfl | ⟨rfl, -⟩ := hi <;> simp
  | write | writeBlock | scan | supervise | init => exact .inr ⟨by simp, append_nil (by simp)⟩
  | consume | render | publish | connect | disconnect | reload => exact .inr ⟨by simp, append_nil rfl⟩

/-- Settles O53: `now` moves at TIME_ADVANCE only, and there forward. -/
theorem timeMovesOnlyByTheClock : Obligations.TimeMovesOnlyByTheClock := by
  intro i s t h
  obtain ⟨d, hi, hnow⟩ | hnow := exec_now h
  · exact ⟨by omega, fun _ => ⟨d, hi, hnow⟩⟩
  · exact ⟨hnow.ge, fun hne => absurd hnow hne⟩

/-- Settles O54, by the effects of an operation on FAULT and on WDT_RUN. -/
theorem faultAndWatchdogPersist : Obligations.FaultAndWatchdogPersist :=
  fun _ _ _ h hx => ⟨exec_fault_ne_none h hx, exec_wdtRun h hx⟩

/-- Settles O55, a case for each effect of an operation: what is not named leaves the latch or is a write, and a write
leaves it dirty. -/
theorem dirtyUntilConsumed : Obligations.DirtyUntilConsumed := by
  intro i s t h hd hc
  have hne : t.tl ≠ s.tl := fun he => by rw [he, hd] at hc; cases hc
  cases exec_effect h with
  | consume => exact .inl rfl
  | command head p =>
    obtain ⟨req, rfl⟩ | ⟨req, rfl⟩ := isWrite_of_runPdu_tl_ne head p s.begin hne
    · exact .inr (.inl ⟨head, req, rfl⟩)
    · exact .inr (.inr (.inl ⟨head, req, rfl⟩))
  | chunk c ho => exact .inr (.inr (.inr (.inl ⟨c, rfl⟩)))
  | advance d =>
    refine .inr (.inr (.inr (.inr ⟨d, rfl, ?_⟩)))
    by_contra hx
    rw [advanceTime_eq hx] at hne
    exact hne rfl
  | write | writeBlock => simp [storeAndEval_dirty _ _ hd] at hc
  | display | scan | supervise | init => simp at hne
  | answer | render | publish | blocked | connect | disconnect | kick | reload => exact absurd rfl hne

/-- Settles O58, by the effects of an operation on the queue. -/
theorem notificationQueueIsBoundedFifo : Obligations.NotificationQueueIsBoundedFifo := by
  intro i s t h hx
  obtain ⟨hi, htail⟩ | ⟨hi, happend⟩ := exec_nq h hx
  · exact ⟨fun hne => absurd hi hne, fun _ => htail⟩
  · exact ⟨fun _ => happend, fun he => absurd he hi⟩

/-- Settles O35: an operation by its effects on PB; in the block's own schedule a PUBLISH is no step of its own
(42_display_render.md R137), and a read of the supervisor leaves PB. -/
theorem onlyPublicationChangesTheBitmap : Obligations.OnlyPublicationChangesTheBitmap := by
  refine ⟨fun i s t h hne => exec_pb h hne, fun s t hb h hne => ?_⟩
  obtain ⟨-, -, ⟨-, rfl⟩ | ⟨r, more, i, hp, hi, hexec⟩ | ⟨more, -, rfl⟩⟩ := step_next h
  · exact absurd rfl hne
  · refine ⟨r, more, i, hp, hi, ?_⟩
    rw [BlockSchedule, hp] at hb
    have htaken : blockTakes s i = true := by simpa [turnTaken, hi] using hb.1
    obtain rfl | hcause := exec_pb hexec hne
    · simp [blockTakes] at htaken
    · exact hcause
  · exact absurd (superviseRead_pb _) hne

end Sys2Proof.Machine
end

section
/-! O11: the register table after a reset (10_state.md R16). -/

namespace Sys2Proof.Machine

/-- The values of 10_state.md R16 in the table a reset gives. -/
theorem resetTable_values (fill : U16) :
    (State.resetTable fill)[0] = 0 ∧ (State.resetTable fill)[1] = 0 ∧ (State.resetTable fill)[2] = 1970 ∧
    (State.resetTable fill)[3] = 1 ∧ (State.resetTable fill)[4] = 1 ∧ (State.resetTable fill)[5] = 1 ∧
    ∀ (i : Nat) (_ : 6 ≤ i) (hi : i < 32), (State.resetTable fill)[i] = fill := by
  refine ⟨rfl, rfl, rfl, rfl, rfl, rfl, fun i h6 hi => ?_⟩
  interval_cases i <;> rfl

/-- Settles O11: power-on and the watchdog reset give REG the same table. -/
theorem resetGivesTheTable : Obligations.ResetGivesTheTable := by
  intro s hs
  have hreg : s.reg = State.resetTable s.cfg.resetFill := by
    obtain rfl | ⟨cfg, now, rb, n, rfl⟩ | ⟨d, s₀, hx, h⟩ := hs
    · rfl
    · rfl
    · simp only [exec, execTimeAdvance, advanceTime_expires hx] at h
      cases h
      rfl
  rw [hreg]
  exact resetTable_values s.cfg.resetFill

end Sys2Proof.Machine
end

section
/-! O59 and O60: the invariant between steps. It holds after a reset, each operation on the state keeps it, and so does
every effect of an instruction (Laws/Step.lean) and every read of the supervisor. -/

namespace Sys2Proof.Machine

/-- The state of a reset has the invariant, whatever RB holds in PB's shape (70_reset_and_hazards.md R179). -/
theorem boot_inv (cfg : Config) (now : Nat) {rb : Bitmap} (wdtCnt : Nat) (hrb : Shaped cfg.width rb) :
    Inv (State.boot cfg now rb wdtCnt) where
  latch := ⟨rfl, rfl⟩
  published := blank_shaped _
  buffer := hrb
  row := scanRows_pos cfg
  address := scanRows_pos cfg
  clockLow := rfl
  latchLow := rfl
  shifted := List.length_replicate
  latched := List.length_replicate
  bufferBound := Nat.zero_le _
  waiting := detectFrame_nil
  closedEmpty _ := rfl
  queueBound := Nat.zero_le _
  cycleOrder _ h := by cases h
  slotsPast slot := by cases slot <;> exact Nat.le_refl now

/-- The block reset restores the invariant from any state (70_reset_and_hazards.md R177). -/
theorem blockReset_inv (s : State) : Inv (blockReset s) :=
  { boot_inv s.cfg s.now (Config.freeCount s.free) (freeBitmap_shaped s.cfg.width s.free) with }

/-- Settles O59: power-on is a reset in the default configuration with a blank RB. -/
theorem resetMeetsTheInvariant : Obligations.ResetMeetsTheInvariant :=
  boot_inv Config.default 0 0 (blank_shaped 32)

namespace Inv

variable {s t : State}

/-! ### The operations on the state -/

/-- The outcomes are not part of the invariant (log 6). -/
protected theorem done (h : Inv s) (o : OpOutcome) : Inv (s.done o) := { h with }

protected theorem begin (h : Inv s) : Inv s.begin := { h with }

/-- The schedule is not part of the invariant (log 1). -/
theorem setPending (h : Inv s) (us : List Turn) : Inv { s with pending := us } := { h with }

/-- What the host command port keeps carries the invariant over, but for the buffer (41_host_commands.md R108). -/
theorem of_hostKeeps (h : Inv s) (hk : HostKeeps s t) (hlen : t.buf.length ≤ s.cfg.bufCap)
    (hwait : detectFrame t.buf = .wait) (hclosed : s.conn = .closed → t.buf = []) : Inv t where
  latch := hk.tracks h.latch
  published := by rw [hk.cfg, hk.pb]; exact h.published
  buffer := by rw [hk.cfg, hk.rb]; exact h.buffer
  row := by rw [hk.cfg, hk.srow]; exact h.row
  address := by rw [hk.cfg, hk.pins]; exact h.address
  clockLow := by rw [hk.pins]; exact h.clockLow
  latchLow := by rw [hk.pins]; exact h.latchLow
  shifted := by rw [hk.cfg, hk.panel]; exact h.shifted
  latched := by rw [hk.cfg, hk.panel]; exact h.latched
  bufferBound := by rw [hk.cfg]; exact hlen
  waiting := hwait
  closedEmpty := by rw [hk.conn]; exact hclosed
  queueBound := by
    obtain ⟨new, hnq, hbound⟩ := hk.queue
    rw [hk.cfg]
    by_cases hnew : new = []
    · rw [hnq, hnew, List.append_nil]; exact h.queueBound
    · exact hbound hnew
  cycleOrder := by rw [hk.sup]; exact h.cycleOrder
  slotsPast := by rw [hk.lt, hk.now]; exact h.slotsPast

/-- A command keeps the buffer or, when its PDU is too short, empties it (41_host_commands.md R110). -/
protected theorem runPdu (h : Inv s) (hd : FrameHead) (p : Pdu) : Inv (runPdu hd p s) := by
  have hbuf := runPdu_buf hd p s
  split at hbuf
  · exact h.of_hostKeeps (runPdu_keeps hd p s) (by simp [hbuf]) (by rw [hbuf, detectFrame_nil]) fun _ => hbuf
  · exact h.of_hostKeeps (runPdu_keeps hd p s) (by rw [hbuf]; exact h.bufferBound) (by rw [hbuf]; exact h.waiting)
      fun hc => by rw [hbuf]; exact h.closedEmpty hc

/-- A chunk leaves bytes that wait for more, within the capacity (41_host_commands.md R107, R108). -/
protected theorem acceptChunk (h : Inv s) (c : List Byte) (ho : s.conn = .opened) : Inv (acceptChunk c s) := by
  obtain ⟨hwait, hlen⟩ := acceptChunk_buf c s
  refine h.of_hostKeeps (acceptChunk_keeps c s) ?_ hwait fun hc => by rw [ho] at hc; cases hc
  obtain hnil | hlen := hlen
  · simp [hnil]
  · exact hlen

protected theorem storeAndEval (h : Inv s) (a : Nat) (vs : List U16) : Inv (storeAndEval a vs s) := by
  have hlatch := storeAndEval_tracks a vs s h.latch
  rw [storeAndEval_eq] at hlatch ⊢
  exact { h with latch := hlatch }

protected theorem clearLatch (h : Inv s) : Inv (clearLatch s) := { h with }

protected theorem renderTo (h : Inv s) (m sec : U16) : Inv (renderTo m sec s) :=
  { h with buffer := renderBitmap_shaped s.cfg m sec }

protected theorem publishBuffer (h : Inv s) : Inv (publishBuffer s) := { h with published := h.buffer }

/-- Taking a notification shortens the queue (42_display_render.md R136). -/
protected theorem displayWork (h : Inv s) : Inv (displayWork s) := by
  cases hq : s.nq with
  | nil => rwa [displayWork_of_nq_nil hq]
  | cons p more =>
    have hlen : more.length ≤ s.cfg.nqDepth := by
      have := h.queueBound
      rw [hq, List.length_cons] at this
      omega
    have htaken : Inv { s with nq := more } := { h with queueBound := hlen }
    have hwork : displayWork s
        = publishBuffer (renderTo p.1 p.2 { s with nq := more }) := by
      unfold displayWork; rw [hq]
    rw [hwork]
    exact (htaken.renderTo p.1 p.2).publishBuffer

/-- A slot that is kicked holds `now` (60_exceptions.md R165). -/
protected theorem kickSlot (h : Inv s) (slot : Slot) : Inv (kickSlot slot s) := by
  refine { h with slotsPast := fun j => ?_ }
  rw [kickSlot_lt, kickSlot_now]
  by_cases hj : j = slot
  · rw [hj, Liveness.get_put_self]
  · rw [Liveness.get_put_of_ne _ _ hj]; exact h.slotsPast j

/-- CONNECT and DISCONNECT leave the buffer empty (41_host_commands.md R122, R123). -/
theorem setConn (h : Inv s) (c : Conn) : Inv { s with conn := c, buf := [] } :=
  { h with bufferBound := Nat.zero_le _, waiting := detectFrame_nil, closedEmpty := fun _ => rfl }

protected theorem reloadWatchdog (h : Inv s) : Inv (reloadWatchdog s) := { h with }

protected theorem startWatchdog (h : Inv s) (n : Nat) : Inv (startWatchdog n s) := by
  rw [startWatchdog_eq]
  exact { h with }

protected theorem superviseOnce (h : Inv s) : Inv (superviseOnce s) := by
  unfold superviseOnce
  split
  · exact (h.kickSlot .supervisor).reloadWatchdog
  · exact h.kickSlot .supervisor

/-- Time moves away from the slots, or the reset puts them at `now` (60_exceptions.md R169, R170). -/
protected theorem advanceTime (h : Inv s) (d : Nat) : Inv (advanceTime d s) := by
  have hmoved : Inv { s with now := s.now + d } :=
    { h with slotsPast := fun slot => Nat.le_add_right_of_le (h.slotsPast slot) }
  by_cases hx : Expires d s
  · rw [advanceTime_expires hx]; exact blockReset_inv _
  · rw [advanceTime_eq hx]; exact { hmoved with }

/-! ### The scan step -/

/-- A scan step drives the row it found, shifts the panel full, and moves to the next row (43_scan_engine.md R146). -/
protected theorem scanRow (h : Inv s) : Inv (scanRow s) := by
  have hpins := scanRow_pins s h.clockLow h.shifted
  have hpanel := scanRow_shows s h.clockLow h.latchLow h.shifted
  have hseq := shiftSeq_length s.cfg s.pb s.srow
  rw [scanRow_eq, hpins, hpanel]
  exact { h with
    row := Nat.mod_lt _ (scanRows_pos s.cfg)
    address := h.row
    clockLow := rfl
    latchLow := rfl
    shifted := hseq
    latched := hseq }

protected theorem noteOverrun (h : Inv s) : Inv (noteOverrun s) := by
  unfold noteOverrun
  split
  · exact { h with }
  · exact h.done _

/-! ### The supervisor's reads -/

/-- A read of the supervisor takes the next of the four slots in the order PROTO, LOGGER, DISPLAY, SUPERVISOR (log 14). -/
protected theorem readSlot (h : Inv s) (c : SupervisorCycle)
    (hc : c.next :: c.more ∈ [[.proto, .logger, .display, .supervisor], [.logger, .display, .supervisor],
      [.display, .supervisor], [Slot.supervisor]]) : Inv (readSlot c s) := by
  obtain ⟨slot, more, ok⟩ := c
  cases more with
  | nil =>
    rw [readSlot_last]
    exact { h with cycleOrder := fun _ hnone => by cases hnone }
  | cons next rest =>
    rw [readSlot_more]
    refine { h with cycleOrder := fun _ hsome => ?_ }
    cases hsome
    simp only [List.mem_cons, List.cons.injEq, List.not_mem_nil, or_false, reduceCtorEq, and_false] at hc ⊢
    obtain ⟨-, hrest⟩ | ⟨-, hrest⟩ | ⟨-, hrest⟩ := hc <;> simp [hrest]

protected theorem superviseRead (h : Inv s) : Inv (superviseRead s) := by
  unfold superviseRead
  split
  · exact (h.kickSlot .supervisor).readSlot _ List.mem_cons_self
  · next c hc => exact h.readSlot c (List.mem_cons_of_mem _ (h.cycleOrder c hc))

/-! ### Operations, turns and steps -/

/-- Every operation keeps the invariant: a case for each effect. -/
protected theorem exec {i : Instr} (h : Inv s) (he : exec i s = .next t) : Inv t := by
  cases exec_effect he with
  | command hd p => exact h.begin.runPdu hd p
  | answer _ o => exact h.done o
  | write a v => exact (h.storeAndEval a [v]).done _
  | writeBlock a vs => exact (h.storeAndEval a vs).done _
  | consume => exact h.clearLatch.done _
  | render m sec => exact (h.renderTo m sec).done _
  | publish => exact h.publishBuffer.done _
  | display => exact (h.displayWork.kickSlot _).done _
  | scan => exact h.scanRow.noteOverrun
  | chunk c ho => exact (h.begin.acceptChunk c ho).kickSlot _
  | blocked => exact h.begin
  | connect | disconnect => exact (h.setConn _).done _
  | kick _ slot => exact (h.kickSlot slot).done _
  | supervise => exact h.superviseOnce.done _
  | init n => exact (h.startWatchdog n).done _
  | reload => exact h.reloadWatchdog.done _
  | advance d => exact (h.advanceTime d).done _

end Inv

/-- Settles O60: a step was idle, executed the operation of the first scheduled request, or made one read of the
supervisor, and each keeps the invariant. -/
theorem stepKeepsTheInvariant : Obligations.StepKeepsTheInvariant := by
  intro s t h hstep
  obtain ⟨-, -, ⟨-, rfl⟩ | ⟨r, more, i, -, -, hexec⟩ | ⟨more, -, rfl⟩⟩ := step_next hstep
  · exact h
  · exact (h.setPending more).exec hexec
  · exact (h.setPending more).superviseRead

end Sys2Proof.Machine
end

section
/-! O5: the big-endian pair of a register value (00_scope.md R12, 20_memory.md R47). -/

namespace Sys2Proof

/-- Settles O5, by the values of `be16` and `bytes16`; reading back is the case of one value of a list of words. -/
theorem fieldsAreBigEndian : Obligations.FieldsAreBigEndian := by
  refine ⟨be16_toNat, bytes16_toNat, fun v => ?_⟩
  simpa only [List.flatMap_singleton] using wordsOf_flatMap_bytes16 [v]

end Sys2Proof
end

section
/-! O18: writes are idempotent (20_memory.md R53). The store and LatchEval are idempotent, so the state a write leaves is
one the same write does not change. -/

namespace Sys2Proof.Machine

/-- Storing the same values once more changes no register. -/
@[simp] theorem storeRegs_storeRegs (r : Vector U16 32) (a : Nat) (vs : List U16) :
    storeRegs (storeRegs r a vs) a vs = storeRegs r a vs := by
  refine Vector.ext fun i hi => Option.some.inj ?_
  simp only [← Vector.getElem?_eq_getElem, storeRegs_getElem? _ _ _ _ hi]
  split <;> rfl

/-- LatchEval finds no change in the pair it has just observed (40_register_file.md R99). -/
@[simp] theorem TimeLatch.eval_eval (tl : TimeLatch) (m sec : U16) : (tl.eval m sec).eval m sec = tl.eval m sec := by
  simp [TimeLatch.eval_eq]

/-- A write that finds its values stored and the latch evaluated on them changes nothing. -/
theorem storeAndEval_eq_self {a : Nat} {vs : List U16} {t : State} (hreg : storeRegs t.reg a vs = t.reg)
    (htl : a ≤ 1 → t.tl.eval t.reg[0] t.reg[1] = t.tl) : storeAndEval a vs t = t := by
  have hlatch : (if a ≤ 1 then t.tl.eval t.reg[0] t.reg[1] else t.tl) = t.tl := by
    split
    · next ha => exact htl ha
    · rfl
  rw [storeAndEval_eq, hreg, hlatch]

/-- The second of two equal writes changes nothing, whatever the outcome of the first was noted as (log 6). -/
theorem storeAndEval_done_storeAndEval (a : Nat) (vs : List U16) (s : State) (o : OpOutcome) :
    storeAndEval a vs ((storeAndEval a vs s).done o) = (storeAndEval a vs s).done o := by
  refine storeAndEval_eq_self ?_ fun ha => ?_
  · simp
  · simp [storeAndEval_tl, ha]

/-- WRITE_BLOCK of at least one value writes, or finds no such registers (40_register_file.md R98). -/
theorem exec_writeBlock {vs : List U16} (hvs : vs ≠ []) (a : Nat) (s : State) :
    exec (.writeBlock a vs) s =
      .next (if a + vs.length ≤ 32 then (storeAndEval a vs s).done (.ok .unit) else s.done .notFound) := by
  by_cases ha : a + vs.length ≤ 32 <;> simp [exec, execWriteBlock, storeWriteBlock, hvs, ha]

/-- WRITE is the WRITE_BLOCK of one value (40_register_file.md R97, R98). -/
theorem exec_write_eq_writeBlock (a : Nat) (v : U16) (s : State) :
    exec (.write a v) s = exec (.writeBlock a [v]) s := rfl

/-- A WRITE_BLOCK leads to a state that the same WRITE_BLOCK leaves as it is, inside the table and outside. -/
theorem exec_writeBlock_fixed {vs : List U16} (hvs : vs ≠ []) (a : Nat) (s : State) :
    ∃ t, exec (.writeBlock a vs) s = .next t ∧ exec (.writeBlock a vs) t = .next t := by
  refine ⟨_, exec_writeBlock hvs a s, ?_⟩
  rw [exec_writeBlock hvs]
  split
  · rw [storeAndEval_done_storeAndEval]; rfl
  · rfl

/-- Settles O18: the state after the first write is the state after the second; a WRITE is a block of one value. -/
theorem writesAreIdempotent : Obligations.WritesAreIdempotent := by
  intro s a
  have block (vs : List U16) (hvs : vs ≠ []) : ∃ t u : State, exec (.writeBlock a vs) s = .next t ∧
      exec (.writeBlock a vs) t = .next u ∧ u.reg = t.reg ∧ u.tl = t.tl := by
    obtain ⟨t, hfirst, hsecond⟩ := exec_writeBlock_fixed hvs a s
    exact ⟨t, t, hfirst, hsecond, rfl, rfl⟩
  refine ⟨fun v => ?_, block⟩
  simp only [exec_write_eq_writeBlock]
  exact block [v] (List.cons_ne_nil v [])

end Sys2Proof.Machine
end

section
/-! O7, O9: the turn a step takes, and the selectors that ask for no operation (30_encoding.md R84; log 1). -/

namespace Sys2Proof

/-- A selector that none of the rows of 30_encoding.md R84 has is no operation, whatever operand bytes follow it. -/
theorem decodeOp_unknown {sel : Byte} (ops : List Byte)
    (h : sel.toNat ∉ [0xA0, 0xA1, 0xA2, 0xA3, 0xA4, 0xA5, 0xA6, 0xA7, 0xB0, 0xB1, 0xB2, 0xC0, 0xD0, 0xD1, 0xD2, 0xD3,
      0xE0, 0xE1, 0xE2, 0xE3, 0xF0]) : decodeOp sel ops = .error (.unknownOpsel sel) := by
  unfold decodeOp
  split
  case h_22 => rfl
  all_goals
    next hrow => exact absurd (hrow ▸ h) (by decide)

/-- The decoder reads an operation from a word of the opcode table when the word's request decodes to it. -/
theorem decodeTableWord_eq_some {nbits w : Nat} {i : Instr} :
    decodeTableWord nbits w = some i ↔ decodeRequest (tableRequest nbits w) = .ok i := by
  unfold decodeTableWord
  cases decodeRequest (tableRequest nbits w) <;> simp

end Sys2Proof

namespace Sys2Proof.Machine

/-- In a state without a fault and with a legal configuration a step takes the first scheduled turn (log 1). -/
theorem step_eq_takeTurn {s : State} {u : Turn} {more : List Turn} (hf : s.fault = none)
    (hc : configLegal s.cfg = true) (hp : s.pending = u :: more) :
    step s = takeTurn u { s with pending := more } := by
  simp [step, hf, hc, hp]

/-- The turn of a request that decodes executes its operation. -/
theorem takeTurn_of_decodes {r : Request} {i : Instr} (h : decodeRequest r = .ok i) (s : State) :
    takeTurn (.operation r) s = exec i s := by
  simp [takeTurn, h]

/-- The turn of a request that is no operation is refused (60_exceptions.md R160). -/
theorem takeTurn_of_decode_error {r : Request} {e : DecodeError} (h : decodeRequest r = .error e) (s : State) :
    takeTurn (.operation r) s = .refused (refusalOf e) := by
  simp [takeTurn, h]

/-- Settles O7: the step takes the scheduled word off again, so the operation runs in the state it was scheduled in. -/
theorem fetchedWordRunsNext : Obligations.FetchedWordRunsNext := by
  intro s nbits w i hf hc hw
  have hstep : step (s.withFetchWord nbits w) = takeTurn (.operation (tableRequest nbits w)) s :=
    step_eq_takeTurn hf hc rfl
  rw [hstep, takeTurn_of_decodes (decodeTableWord_eq_some.mp hw)]

/-- Settles O9: the scheduled request is the one the step takes, and it decodes to the error of its selector. -/
theorem unknownSelectorsAreRefused : Obligations.UnknownSelectorsAreRefused := by
  intro s sel ops more hf hc hp hsel
  have hdecode : decodeRequest (.port (sel :: ops)) = .error (.unknownOpsel sel) := decodeOp_unknown ops hsel
  rw [step_eq_takeTurn hf hc hp, takeTurn_of_decode_error hdecode, refusalOf]

end Sys2Proof.Machine
end

section
/-! O2, O3, O4: the frames of 30_encoding.md R86, byte by byte, and what their PDUs decode to (R66 to R73). -/

namespace Sys2Proof

/-! ### The frames of R86 -/

/-- The frame of a read registers request, as R86 writes it. -/
theorem frameBytes_encodeReadPdu (t : U16) (u : Byte) (a q : U16) :
    frameBytes ⟨t, u⟩ (encodeReadPdu (some ⟨a, q⟩))
      = bytes16 t ++ [0, 0, 0, 6, u, 0x03] ++ bytes16 a ++ bytes16 q := by
  rw [frameBytes_short _ _ (by simp [encodeReadPdu])]
  rfl

/-- The frame of a write single request, as R86 writes it. -/
theorem frameBytes_encodeWritePdu (t : U16) (u : Byte) (a v : U16) :
    frameBytes ⟨t, u⟩ (encodeWritePdu (some ⟨a, v⟩))
      = bytes16 t ++ [0, 0, 0, 6, u, 0x06] ++ bytes16 a ++ bytes16 v := by
  rw [frameBytes_short _ _ (by simp [encodeWritePdu])]
  rfl

/-- The frame of a function code and any bytes after it: LEN counts both and the unit id. -/
theorem frameBytes_cons (t : U16) (u f : Byte) (ds : List Byte) :
    frameBytes ⟨t, u⟩ (f :: ds)
      = bytes16 t ++ [0, 0] ++ bytes16 (BitVec.ofNat 16 (2 + ds.length)) ++ [u, f] ++ ds := by
  have hlen : 1 + (f :: ds).length = 2 + ds.length := by rw [List.length_cons]; omega
  simp only [frameBytes, hlen, List.append_assoc, List.cons_append, List.nil_append]

/-- A list of values takes two bytes a value (30_encoding.md R72). -/
theorem flatMap_bytes16_length (vs : List U16) : (vs.flatMap bytes16).length = 2 * vs.length := by
  induction vs with
  | nil => rfl
  | cons v vs ih => simp only [List.flatMap_cons, List.length_append, bytes16_length, ih, List.length_cons]; omega

/-- The frame of a write multiple request of the values `vs`, as R86 writes it: LEN is 7 + 2n. -/
theorem frameBytes_encodeWriteManyPdu (t : U16) (u : Byte) (a q : U16) (bc : Byte) (vs : List U16) :
    frameBytes ⟨t, u⟩ (encodeWriteManyPdu (some ⟨a, q, bc, vs.flatMap bytes16⟩))
      = bytes16 t ++ [0, 0] ++ bytes16 (BitVec.ofNat 16 (7 + 2 * vs.length)) ++ [u, 0x10] ++ bytes16 a ++ bytes16 q
          ++ [bc] ++ vs.flatMap bytes16 := by
  have hlen : 2 + (bytes16 a ++ bytes16 q ++ [bc] ++ vs.flatMap bytes16).length = 7 + 2 * vs.length := by
    simp only [List.length_append, bytes16_length, flatMap_bytes16_length, List.length_singleton]; omega
  rw [encodeWriteManyPdu, frameBytes_cons, hlen]
  simp only [List.append_assoc]

/-! ### What their PDUs decode to -/

/-- The fields of a 0x03 request are read back. -/
theorem decodeReadReq_bytes16 (a q : U16) : decodeReadReq (bytes16 a ++ bytes16 q) = some ⟨a, q⟩ := by
  simp [bytes16, decodeReadReq, be16_bytes16]

/-- The fields of a 0x06 request are read back. -/
theorem decodeWriteReq_bytes16 (a v : U16) : decodeWriteReq (bytes16 a ++ bytes16 v) = some ⟨a, v⟩ := by
  simp [bytes16, decodeWriteReq, be16_bytes16]

/-- The fields of a 0x10 request are read back, with a value field that BC covers. -/
theorem decodeWriteManyReq_bytes16 (a q : U16) {bc : Byte} {data : List Byte} (h : data.length ≤ bc.toNat) :
    decodeWriteManyReq (bytes16 a ++ bytes16 q ++ [bc] ++ data) = some ⟨a, q, bc, data⟩ := by
  simp [bytes16, decodeWriteManyReq, be16_bytes16, List.take_of_length_le h]

/-- A code that is none of the three commands' is the unsupported command, whatever follows it (30_encoding.md R69). -/
theorem decodePdu_unsupported {f : Byte} (args : List Byte) (h3 : f ≠ 0x03) (h6 : f ≠ 0x06) (h10 : f ≠ 0x10) :
    decodePdu f args = .unsupported f := by
  rw [decodePdu, if_neg h3, if_neg h6, if_neg h10]

/-- The frame of a 0x03 request is the read command. -/
theorem decodeRequest_readFrame (h : FrameHead) (a q : U16) :
    decodeRequest (.frame (frameBytes h (encodeReadPdu (some ⟨a, q⟩)))) = .ok (.readRegisters h (some ⟨a, q⟩)) := by
  have hpdu : decodePdu 0x03 (bytes16 a ++ bytes16 q) = .read (some ⟨a, q⟩) := by
    simp [decodePdu, decodeReadReq_bytes16]
  rw [encodeReadPdu, decodeRequest_frameBytes _ _ _ (by simp), hpdu, Pdu.instr]

/-- The frame of a 0x06 request is the write single command. -/
theorem decodeRequest_writeFrame (h : FrameHead) (a v : U16) :
    decodeRequest (.frame (frameBytes h (encodeWritePdu (some ⟨a, v⟩)))) = .ok (.writeSingle h (some ⟨a, v⟩)) := by
  have hpdu : decodePdu 0x06 (bytes16 a ++ bytes16 v) = .writeSingle (some ⟨a, v⟩) := by
    simp [decodePdu, decodeWriteReq_bytes16]
  rw [encodeWritePdu, decodeRequest_frameBytes _ _ _ (by simp), hpdu, Pdu.instr]

/-- The frame of a 0x10 request is the write multiple command, for a value field within BC and the longest PDU
(30_encoding.md R67). -/
theorem decodeRequest_writeManyFrame (h : FrameHead) (a q : U16) {bc : Byte} {data : List Byte}
    (hbc : data.length ≤ bc.toNat) (hdata : data.length ≤ 246) :
    decodeRequest (.frame (frameBytes h (encodeWriteManyPdu (some ⟨a, q, bc, data⟩))))
      = .ok (.writeMultiple h (some ⟨a, q, bc, data⟩)) := by
  have hpdu : decodePdu 0x10 (bytes16 a ++ bytes16 q ++ [bc] ++ data) = .writeMultiple (some ⟨a, q, bc, data⟩) := by
    simp only [decodePdu, decodeWriteManyReq_bytes16 a q hbc]
    rfl
  have hargs : (bytes16 a ++ bytes16 q ++ [bc] ++ data).length ≤ 251 := by
    simp only [List.length_append, bytes16_length, List.length_singleton]; omega
  rw [encodeWriteManyPdu, decodeRequest_frameBytes _ _ _ hargs, hpdu, Pdu.instr]

/-- Settles O2: each frame of R86 is the frame of its command's PDU, which is detected whole and decoded. -/
theorem commandFramesDecode : Obligations.CommandFramesDecode := by
  refine fun t u => ⟨fun a q => ?read, fun a v => ?single, fun a vs hvs => ?multiple, fun f ds h3 h6 h10 hds => ?other⟩
  case read => rw [← frameBytes_encodeReadPdu, decodeRequest_readFrame]
  case single => rw [← frameBytes_encodeWritePdu, decodeRequest_writeFrame]
  case multiple =>
    have hlen := flatMap_bytes16_length vs
    rw [← frameBytes_encodeWriteManyPdu, decodeRequest_writeManyFrame]
    · rw [BitVec.toNat_ofNat]; omega
    · omega
  case other => rw [← frameBytes_cons, decodeRequest_frameBytes _ _ _ hds, decodePdu_unsupported ds h3 h6 h10, Pdu.instr]

/-- Settles O3: a pseudo-instruction sends the frame of its command's PDU, which is the one R86 writes out. -/
theorem pseudoInstructionsExpand : Obligations.PseudoInstructionsExpand := by
  refine fun w t u => ⟨fun a q => ?read, fun a v => ?single, fun a vs => ?multiple, fun f ds => ?other⟩
  case read => rw [ProgramLine.expand, frameBytes_encodeReadPdu]
  case single => rw [ProgramLine.expand, frameBytes_encodeWritePdu]
  case multiple => rw [ProgramLine.expand, frameBytes_encodeWriteManyPdu]
  case other => rw [ProgramLine.expand, frameBytes_cons]

/-- Settles O4: the frames and selectors are closed terms, and the decoder evaluates on each. -/
theorem tableWordsDecode : Obligations.TableWordsDecode :=
  ⟨rfl, rfl, rfl, rfl, rfl, rfl, rfl⟩

end Sys2Proof
end

section
/-! O25: a command whose PDU parses sends one reply, any other resyncs (41_host_commands.md R110, R119;
30_encoding.md R74). -/

namespace Sys2Proof.Machine

/-! ### Which PDUs parse -/

theorem decodeReadReq_eq_none (args : List Byte) : decodeReadReq args = none ↔ args.length < 4 := by
  match args with
  | _ :: _ :: _ :: _ :: _ => simp [decodeReadReq]
  | [] | [_] | [_, _] | [_, _, _] => simp [decodeReadReq]

theorem decodeWriteReq_eq_none (args : List Byte) : decodeWriteReq args = none ↔ args.length < 4 := by
  match args with
  | _ :: _ :: _ :: _ :: _ => simp [decodeWriteReq]
  | [] | [_] | [_, _] | [_, _, _] => simp [decodeWriteReq]

theorem decodeWriteManyReq_eq_none (args : List Byte) : decodeWriteManyReq args = none ↔ args.length < 5 := by
  match args with
  | _ :: _ :: _ :: _ :: _ :: _ => simp [decodeWriteManyReq]
  | [] | [_] | [_, _] | [_, _, _] | [_, _, _, _] => simp [decodeWriteManyReq]

/-- A PDU is malformed exactly when it lacks fixed fields of its command (41_host_commands.md R110). -/
theorem pduMalformed_decodePdu {fc : Byte} {args : List Byte} (hlen : (fc :: args).length ≤ 252) :
    pduMalformed (decodePdu fc args) = true ↔ ¬ PduParses (fc :: args) := by
  have hparses : PduParses (fc :: args) ↔
      (fc = 0x03 ∨ fc = 0x06 → 4 ≤ args.length) ∧ (fc = 0x10 → 5 ≤ args.length) := by
    simp only [List.length_cons] at hlen
    simp [PduParses, hlen]
  rw [hparses]
  unfold decodePdu
  split
  case isTrue h3 => simp [h3, pduMalformed, decodeReadReq_eq_none]
  case isFalse h3 =>
    split
    case isTrue h6 => simp [h6, pduMalformed, decodeWriteReq_eq_none]
    case isFalse h6 =>
      split
      case isTrue h10 => simp [h10, pduMalformed, decodeWriteManyReq_eq_none]
      case isFalse h10 =>
        exact iff_of_false Bool.false_ne_true (not_not.mpr ⟨fun hfc => (hfc.elim h3 h6).elim, fun hfc => (h10 hfc).elim⟩)

/-- A command without its fields resyncs and does nothing else (41_host_commands.md R110). -/
theorem runPdu_of_malformed (h : FrameHead) {p : Pdu} (hp : pduMalformed p = true) (s : State) :
    runPdu h p s = resync .malformed s := by
  rcases p with (_ | r) | (_ | r) | (_ | r) | fc
  case read.none | writeSingle.none | writeMultiple.none => rfl
  all_goals cases hp

/-! ### The one reply -/

/-- State `t` has one reply frame more than `s`, with header `h` and a PDU of legal length (30_encoding.md R67, R74). -/
def RepliesOnce (h : FrameHead) (s t : State) : Prop :=
  ∃ rpdu : List Byte, 1 ≤ rpdu.length ∧ rpdu.length ≤ 252 ∧ t.rt = s.rt ++ [.item (frameBytes h rpdu)]

/-- An exception reply is one reply (30_encoding.md R78). -/
theorem raiseExc_repliesOnce (h : FrameHead) (fc code : Byte) (s : State) : RepliesOnce h s (raiseExc h fc code s) :=
  ⟨[fc ||| 0x80, code], by simp, by simp, raiseExc_rt h fc code s⟩

/-- A command's reply of legal length is one reply, when nothing was sent before it. -/
theorem replyOk_repliesOnce (h : FrameHead) {rpdu : List Byte} {s t : State} (hrt : t.rt = s.rt)
    (hpos : 1 ≤ rpdu.length) (hmax : rpdu.length ≤ 252) : RepliesOnce h s (replyOk h rpdu t) :=
  ⟨rpdu, hpos, hmax, by rw [replyOk_rt, hrt]⟩

/-- A write sends no reply, nor does AfterWrite (41_host_commands.md R116). -/
theorem afterWrite_storeAndEval_rt (a : Nat) (vs : List U16) (s : State) :
    (afterWrite (storeAndEval a vs s)).rt = s.rt := by
  rw [afterWrite_eq, storeAndEval_eq]

theorem storeReadBlock_length {a q : Nat} {s : State} {vs : List U16} (h : storeReadBlock a q s = some vs) :
    vs.length = q := by
  unfold storeReadBlock at h
  split at h
  · cases h; exact State.regsAt_length s a q
  · cases h

theorem runReadRegisters_repliesOnce (h : FrameHead) (r : ReadReq) (s : State) :
    RepliesOnce h s (runReadRegisters h (some r) s) := by
  unfold runReadRegisters
  dsimp only
  split
  · exact raiseExc_repliesOnce h 0x03 0x03 s
  · next hq =>
    split
    · exact raiseExc_repliesOnce h 0x03 0x02 s
    · next vs hvs =>
      have hmax : r.qty.toNat ≤ 125 := by
        simp only [readQtyLegal, Bool.and_eq_true, decide_eq_true_eq, Bool.not_eq_false] at hq
        exact hq.2
      have hlen := flatMap_bytes16_length vs
      rw [storeReadBlock_length hvs] at hlen
      refine replyOk_repliesOnce h rfl ?_ ?_ <;> simp only [List.length_cons, hlen] <;> omega

theorem runWriteSingle_repliesOnce (h : FrameHead) (r : WriteReq) (s : State) :
    RepliesOnce h s (runWriteSingle h (some r) s) := by
  unfold runWriteSingle
  dsimp only
  split
  · exact raiseExc_repliesOnce h 0x06 0x02 s
  · next t ht =>
    obtain ⟨-, rfl⟩ := storeWrite_eq_some ht
    exact replyOk_repliesOnce h (afterWrite_storeAndEval_rt _ _ s) (by simp) (by simp)

theorem runWriteMultiple_repliesOnce (h : FrameHead) (r : WriteManyReq) (s : State) :
    RepliesOnce h s (runWriteMultiple h (some r) s) := by
  unfold runWriteMultiple
  dsimp only
  split
  · exact raiseExc_repliesOnce h 0x10 0x03 s
  · split
    · exact raiseExc_repliesOnce h 0x10 0x02 s
    · next t ht =>
      obtain ⟨-, rfl⟩ := storeWriteBlock_eq_some ht
      exact replyOk_repliesOnce h (afterWrite_storeAndEval_rt _ _ s) (by simp) (by simp)

/-- Every command that has its fields sends one reply (41_host_commands.md R119). -/
theorem runPdu_repliesOnce (h : FrameHead) {p : Pdu} (hp : pduMalformed p = false) (s : State) :
    RepliesOnce h s (runPdu h p s) := by
  rcases p with (_ | r) | (_ | r) | (_ | r) | fc
  case read.some => exact runReadRegisters_repliesOnce h r s
  case writeSingle.some => exact runWriteSingle_repliesOnce h r s
  case writeMultiple.some => exact runWriteMultiple_repliesOnce h r s
  case unsupported => exact raiseExc_repliesOnce h fc 0x01 s
  all_goals cases hp

/-- Settles O25: the command of a PDU that parses has its fields and replies once, leaving the buffer; that of any other
PDU lacks them and resyncs. -/
theorem oneReplyPerCommand : Obligations.OneReplyPerCommand := by
  refine fun s h fc args hlen => ⟨fun hparses => ?_, fun hshort => ?_⟩
  · have hfields : pduMalformed (decodePdu fc args) = false :=
      Bool.eq_false_iff.mpr fun hm => (pduMalformed_decodePdu hlen).mp hm hparses
    obtain ⟨rpdu, hpos, hmax, hrt⟩ := runPdu_repliesOnce h hfields s.begin
    refine ⟨runPdu h (decodePdu fc args) s.begin, rpdu, exec_pdu h _ s, hpos, hmax, ?_, hrt⟩
    rw [runPdu_buf, hfields]
    rfl
  · rw [exec_pdu, runPdu_of_malformed h ((pduMalformed_decodePdu hlen).mpr hshort)]
    rfl

end Sys2Proof.Machine
end

section
/-! O37: the events of a scan step and the pins they leave (30_encoding.md R83, 43_scan_engine.md R146). -/

namespace Sys2Proof.Machine

/-- Shifting bits leaves DATA at the last of them and CLK low, whatever CLK was before; without a bit no pin moves. -/
theorem foldl_drive_bitEvents (seq : List Bool) (p : Pins) :
    (seq.flatMap bitEvents).foldl Pins.drive p
      = { p with data := seq.getLast?.getD p.data, clk := if seq = [] then p.clk else false } := by
  induction seq generalizing p with
  | nil => rfl
  | cons b seq ih =>
    have hbit : (bitEvents b).foldl Pins.drive p = { p with data := b, clk := false } := rfl
    rw [List.flatMap_cons, List.foldl_append, hbit, ih]
    simp [List.getLast?_cons]

/-- The pins after a scan row, from any pins before it: OE on, ADDR at the row, DATA at the last bit, LAT low, and CLK
low if it shifted a bit. -/
theorem scanRow_pins_from_any (s : State) : (scanRow s).pins =
    ⟨true, s.srow, (shiftSeq s.cfg s.pb s.srow).getLast?.getD s.pins.data,
      if shiftSeq s.cfg s.pb s.srow = [] then s.pins.clk else false, false⟩ := by
  have hrow : (scanRow s).pins = (emitAll s (scanEvents s.srow (shiftSeq s.cfg s.pb s.srow))).pins := rfl
  rw [hrow, emitAll_pins, scanEvents, List.foldl_append, List.foldl_append, foldl_drive_bitEvents]
  rfl

/-- A scan step shorter than the tick does not overrun (70_reset_and_hazards.md R189; log 12). -/
theorem scanOverruns_eq_false {cfg : Config} (h : ∀ d, cfg.scanStepNs = some d → d * cfg.fScan < 1000000000) :
    scanOverruns cfg = false := by
  unfold scanOverruns
  split
  · rfl
  · next d hd => exact decide_eq_false (Nat.not_le.mpr (h d hd))

/-- Without an overrun SCAN_STEP is the scan row, with outcome Ok. -/
theorem exec_scanStep {s : State} (h : scanOverruns s.cfg = false) :
    exec .scanStep s = .next ((scanRow s).done (.ok .unit)) := by
  have hcfg : (scanRow s).cfg = s.cfg := by rw [scanRow_eq]
  simp [exec, execScanStep, noteOverrun, hcfg, h]

/-- Settles O37: SCAN_STEP is the scan row, whose events, pins and frame `scanRow_eq` and `scanRow_pins_from_any` give. -/
theorem scanStepEmitsTheSequence : Obligations.ScanStepEmitsTheSequence := by
  intro s h
  refine ⟨shiftSeq s.cfg s.pb s.srow, (scanRow s).panel, rfl, shiftSeq_length _ _ _, ?_⟩
  rw [exec_scanStep (scanOverruns_eq_false h), scanRow_eq, scanRow_pins_from_any]
  rfl

end Sys2Proof.Machine
end

section
/-! What an operation does to the register table and how many resets a run holds (40_register_file.md R89, R93;
70_reset_and_hazards.md R177): O57, one case for each effect of an operation (Laws/Step.lean), and what a run of
operations keeps. -/

namespace Sys2Proof.Machine

/-! ### The register table and the reply trace under the composite operations -/

@[simp] theorem displayWork_reg (s : State) : (displayWork s).reg = s.reg := by rw [displayWork_eq]
@[simp] theorem displayWork_rt (s : State) : (displayWork s).rt = s.rt := by rw [displayWork_eq]
@[simp] theorem noteOverrun_scanRow_reg (s : State) : (noteOverrun (scanRow s)).reg = s.reg := by
  rw [noteOverrun_scanRow_eq]
@[simp] theorem noteOverrun_scanRow_rt (s : State) : (noteOverrun (scanRow s)).rt = s.rt := by
  rw [noteOverrun_scanRow_eq]
@[simp] theorem superviseOnce_reg (s : State) : (superviseOnce s).reg = s.reg := by rw [superviseOnce_eq]
@[simp] theorem superviseOnce_rt (s : State) : (superviseOnce s).rt = s.rt := by rw [superviseOnce_eq]
@[simp] theorem startWatchdog_reg (n : Nat) (s : State) : (startWatchdog n s).reg = s.reg := by rw [startWatchdog_eq]
@[simp] theorem startWatchdog_rt (n : Nat) (s : State) : (startWatchdog n s).rt = s.rt := by rw [startWatchdog_eq]

/-- The read command touches BUF, RT and the outcomes only (41_host_commands.md R111). -/
theorem runReadRegisters_eq (h : FrameHead) (req : Option ReadReq) (s : State) : runReadRegisters h req s = { s with
    buf := (runReadRegisters h req s).buf
    rt := (runReadRegisters h req s).rt
    outs := (runReadRegisters h req s).outs } := by
  cases req with
  | none => rfl
  | some r =>
    simp only [runReadRegisters]
    split
    · rfl
    · split <;> rfl

@[simp] theorem runReadRegisters_reg (h : FrameHead) (req : Option ReadReq) (s : State) :
    (runReadRegisters h req s).reg = s.reg := by
  rw [runReadRegisters_eq]

/-- Only the two write commands touch the register table (41_host_commands.md R112, R113). -/
theorem isWrite_of_runPdu_reg_ne (h : FrameHead) (p : Pdu) (s : State) (hne : (runPdu h p s).reg ≠ s.reg) :
    (∃ req, p = .writeSingle req) ∨ ∃ req, p = .writeMultiple req := by
  cases p with
  | read req => exact absurd (runReadRegisters_reg h req s) hne
  | writeSingle req => exact .inl ⟨req, rfl⟩
  | writeMultiple req => exact .inr ⟨req, rfl⟩
  | unsupported fc => exact absurd rfl hne

/-- Settles O57, a case for each effect of an operation: what is not named leaves the register table. -/
theorem onlyWritesChangeRegisters : Obligations.OnlyWritesChangeRegisters := by
  intro i s t h hne
  cases exec_effect h with
  | write a v => exact .inl ⟨a, v, rfl⟩
  | writeBlock a vs => exact .inr (.inl ⟨a, vs, rfl⟩)
  | command head p =>
    obtain ⟨req, rfl⟩ | ⟨req, rfl⟩ := isWrite_of_runPdu_reg_ne head p s.begin hne
    · exact .inr (.inr (.inl ⟨head, req, rfl⟩))
    · exact .inr (.inr (.inr (.inl ⟨head, req, rfl⟩)))
  | chunk c => exact .inr (.inr (.inr (.inr (.inl ⟨c, rfl⟩))))
  | advance d =>
    refine .inr (.inr (.inr (.inr (.inr ⟨d, rfl, ?_⟩))))
    by_contra hx
    rw [advanceTime_eq hx] at hne
    exact hne rfl
  | display | scan | supervise | init => simp at hne
  | answer | consume | render | publish | blocked | connect | disconnect | kick | reload => exact absurd rfl hne

/-- An operation that cannot write registers keeps them, unless the watchdog expires. -/
theorem exec_reg_of_not_mayWrite {i : Instr} {s t : State} (hi : mayWriteRegisters i = false)
    (hx : ∀ d, i = .timeAdvance d → ¬ Expires d s) (h : exec i s = .next t) : t.reg = s.reg := by
  by_contra hne
  obtain ⟨a, v, rfl⟩ | ⟨a, vs, rfl⟩ | ⟨hd, req, rfl⟩ | ⟨hd, req, rfl⟩ | ⟨c, rfl⟩ | ⟨d, rfl, hexp⟩ :=
    onlyWritesChangeRegisters i s t h hne
  iterate 5 cases hi
  · exact hx d rfl hexp

/-! ### Resets -/

theorem resetCount_of_rt_eq {s t : State} (h : t.rt = s.rt) : resetCount t = resetCount s := by
  rw [resetCount, resetCount, h]

/-- Reply frames are no RESET markers (10_state.md R33). -/
theorem resetCount_of_hostKeeps {s t : State} (h : HostKeeps s t) : resetCount t = resetCount s := by
  obtain ⟨new, hrt⟩ := h.replies
  simp [resetCount, hrt]

theorem resetCount_blockReset (s : State) : resetCount (blockReset s) = resetCount s + 1 := by
  simp [resetCount]

/-- An operation adds a RESET marker exactly when it is a TIME_ADVANCE that expires the watchdog
(60_exceptions.md R170, 70_reset_and_hazards.md R177). -/
theorem exec_resetCount {i : Instr} {s t : State} (h : exec i s = .next t) :
    ((∃ d, i = .timeAdvance d ∧ Expires d s) ∧ resetCount t = resetCount s + 1) ∨
      ((∀ d, i = .timeAdvance d → ¬ Expires d s) ∧ resetCount t = resetCount s) := by
  cases exec_effect h with
  | advance d =>
    by_cases hx : Expires d s
    · left
      rw [advanceTime_expires hx]
      exact ⟨⟨d, rfl, hx⟩, resetCount_blockReset _⟩
    · right
      rw [advanceTime_eq hx]
      exact ⟨by rintro _ ⟨⟩; exact hx, rfl⟩
  | command head p =>
    have hcount := resetCount_of_hostKeeps (runPdu_keeps head p s.begin)
    exact .inr ⟨by cases p <;> simp [Pdu.instr], hcount⟩
  | chunk c =>
    have hcount := resetCount_of_hostKeeps (acceptChunk_keeps c s.begin)
    exact .inr ⟨by simp, hcount⟩
  | answer _ _ _ hadv => exact .inr ⟨fun d hd => absurd hd (hadv d), rfl⟩
  | blocked _ hi =>
    refine .inr ⟨?_, rfl⟩
    obtain ⟨rfl, -⟩ | ⟨-, rfl | ⟨c, rfl⟩⟩ := hi <;> simp
  | kick _ slot hi =>
    refine .inr ⟨?_, rfl⟩
    obtain rfl | ⟨rfl, -⟩ := hi <;> simp
  | write | writeBlock | display | scan | supervise | init =>
    exact .inr ⟨by simp, resetCount_of_rt_eq (by simp)⟩
  | consume | render | publish | connect | disconnect | reload => exact .inr ⟨by simp, rfl⟩

/-! ### Runs -/

/-- A run that goes on after its first operation. -/
theorem execAll_cons_next {i : Instr} {is : List Instr} {s t : State} (h : execAll (i :: is) s = .next t) :
    ∃ u, exec i s = .next u ∧ execAll is u = .next t := by
  simp only [execAll] at h
  split at h
  · next u hu => exact ⟨u, hu, h⟩
  · cases h
  · cases h

/-- What every operation of a run keeps, the run keeps. -/
theorem execAll_keeps {P : State → Prop} {is : List Instr}
    (hkeep : ∀ i ∈ is, ∀ s t, exec i s = .next t → P s → P t) {s t : State} (hs : P s)
    (h : execAll is s = .next t) : P t := by
  induction is generalizing s with
  | nil => cases h; exact hs
  | cons i is ih =>
    obtain ⟨u, hu, hrest⟩ := execAll_cons_next h
    rw [List.forall_mem_cons] at hkeep
    exact ih hkeep.2 (hkeep.1 s u hu hs) hrest

end Sys2Proof.Machine
end

section
/-! The register-file port (40_register_file.md R95 to R105): what each operation answers, said once, and O13 to O16, O19
and O20 from it. -/

namespace Sys2Proof.Machine

/-! ### Reads -/

/-- READ answers the register, or finds none (40_register_file.md R95). -/
theorem exec_read (a : Nat) (s : State) :
    exec (.read a) s = .next (s.done (if a < 32 then .ok (.word (s.regAt a)) else .notFound)) := by
  by_cases ha : a < 32 <;> simp [exec, execRead, storeRead, ha]

/-- READ_BLOCK of at least one register answers the range, or finds it not in the table (40_register_file.md R96). -/
theorem exec_readBlock (a : Nat) {q : Nat} (hq : 1 ≤ q) (s : State) :
    exec (.readBlock a q) s =
      .next (s.done (if a + q ≤ 32 then .ok (.words (s.regsAt a q)) else .notFound)) := by
  have hne : q ≠ 0 := by omega
  by_cases ha : a + q ≤ 32 <;> simp [exec, execReadBlock, storeReadBlock, hne, ha]

/-- Settles O13: an address below 32 has its register, and `done` changes the outcomes only. -/
theorem readReturnsTheRegister : Obligations.ReadReturnsTheRegister := by
  intro s a
  rw [exec_read]
  refine ⟨fun ha => ?_, fun ha => ?_⟩
  · rw [if_pos ha, State.regAt_eq s a ha]; rfl
  · rw [if_neg (by omega)]; rfl

/-- Settles O14: the values of the range are the list READ_BLOCK answers. -/
theorem readBlockReturnsTheRange : Obligations.ReadBlockReturnsTheRange := by
  intro s a q
  refine ⟨fun hq ha => ?_, fun hq ha => ?_, fun hq => ?_⟩
  · refine ⟨s.regsAt a q, s.regsAt_length a q, fun i hi => s.regsAt_getElem? a q i hi ha, ?_⟩
    rw [exec_readBlock a hq, if_pos ha]; rfl
  · rw [exec_readBlock a hq, if_neg (by omega)]; rfl
  · rw [hq]; rfl

/-- Settles O20: the accessors read registers 0 to 5, which the table has. -/
theorem accessorsReturnRawRegisters : Obligations.AccessorsReturnRawRegisters := by
  intro s
  simp [exec, execGetTime, execGetDate, execGetLogEnable, State.regAt_eq, State.done]

/-! ### Writes -/

/-- WRITE_BLOCK inside the table leaves the stored table, and a latch that is dirty with the new pair when the range
meets {0, 1} and the pair is new (40_register_file.md R98, R99). -/
theorem exec_writeBlock_inside {a : Nat} {vs : List U16} (hvs : vs ≠ []) (ha : a + vs.length ≤ 32) (s : State) :
    let r := storeRegs s.reg a vs
    exec (.writeBlock a vs) s = .next { s with
      reg := r
      tl := if a ≤ 1 ∧ (r[0], r[1]) ≠ (s.tl.lastMin, s.tl.lastSec) then ⟨true, r[0], r[1]⟩ else s.tl
      outs := [.ok .unit] } := by
  rw [exec_writeBlock hvs, if_pos ha, storeAndEval_eq]
  simp only [ite_and]
  rfl

/-- WRITE_BLOCK outside the table writes nothing (40_register_file.md R98). -/
theorem exec_writeBlock_outside {a : Nat} {vs : List U16} (hvs : vs ≠ []) (ha : 32 < a + vs.length) (s : State) :
    exec (.writeBlock a vs) s = .next { s with outs := [.notFound] } := by
  rw [exec_writeBlock hvs, if_neg (by omega)]
  rfl

/-- Settles O15: a WRITE is a WRITE_BLOCK of one value, whose stored table differs from the old one at `a` alone. -/
theorem writeStoresAndEvaluates : Obligations.WriteStoresAndEvaluates := by
  intro s a v
  have hvs : [v] ≠ [] := List.cons_ne_nil v []
  rw [exec_write_eq_writeBlock]
  refine ⟨fun ha => ?_, fun ha => exec_writeBlock_outside hvs (Nat.lt_succ_of_le ha) s⟩
  have hinside := exec_writeBlock_inside hvs (Nat.succ_le_of_lt ha) s
  rwa [storeRegs_single _ _ _ ha] at hinside

/-- Settles O16: the table after the write is the stored one, which `storeRegs_getElem?` describes. -/
theorem writeBlockStoresTheRange : Obligations.WriteBlockStoresTheRange := by
  intro s a vs
  refine ⟨fun hvs ha => ?_, fun hvs ha => exec_writeBlock_outside hvs ha s, fun hvs => ?_⟩
  · exact ⟨storeRegs s.reg a vs, storeRegs_getElem? s.reg a vs, exec_writeBlock_inside hvs ha s⟩
  · rw [hvs]; rfl

/-! ### The latch -/

theorem clearLatch_of_clean {s : State} (h : s.tl.dirty = false) : clearLatch s = s := by
  rw [clearLatch, ← h]

theorem changedTime_of_dirty {s : State} (h : s.tl.dirty = true) :
    changedTime s = some (s.tl.lastMin, s.tl.lastSec) := if_pos h

theorem changedTime_of_clean {s : State} (h : s.tl.dirty = false) : changedTime s = none := by
  simp [changedTime, h]

/-- CONSUME_CHANGED_TIME answers what the latch yields and leaves it clean (40_register_file.md R100). -/
theorem exec_consumeChangedTime (s : State) :
    exec .consumeChangedTime s = .next ((clearLatch s).done (.ok (.change (changedTime s)))) := rfl

/-- A clean latch yields nothing and stays as it is (40_register_file.md R100). -/
theorem exec_consumeChangedTime_of_clean {s : State} (h : s.tl.dirty = false) :
    exec .consumeChangedTime s = .next { s with outs := [.ok (.change none)] } := by
  rw [exec_consumeChangedTime, clearLatch_of_clean h, changedTime_of_clean h]
  rfl

/-- Settles O19, by what a dirty and a clean latch yield. -/
theorem consumeReturnsAndClears : Obligations.ConsumeReturnsAndClears := by
  refine fun s => ⟨fun hd => ?_, exec_consumeChangedTime_of_clean⟩
  rw [exec_consumeChangedTime, changedTime_of_dirty hd]
  rfl

end Sys2Proof.Machine
end

section
/-! O17: the round trips of 40_register_file.md R105. Along a run of operations that cannot write registers the table
changes only with a RESET marker, and a clean latch stays clean. -/

namespace Sys2Proof.Machine

/-- Reading back the range just stored gives the values stored (40_register_file.md R105). -/
theorem regsAt_of_reg_eq_storeRegs {s : State} {r : Vector U16 32} {a : Nat} {vs : List U16}
    (hreg : s.reg = storeRegs r a vs) (ha : a + vs.length ≤ 32) : s.regsAt a vs.length = vs := by
  refine List.ext_getElem? fun i => ?_
  by_cases hi : i < vs.length
  · rw [s.regsAt_getElem? a vs.length i hi ha, hreg, storeRegs_getElem? r a vs (a + i) (by omega),
      if_pos (by omega), Nat.add_sub_cancel_left]
  · rw [List.getElem?_eq_none (by rw [s.regsAt_length]; omega), List.getElem?_eq_none (by omega)]

/-- From `s` to `t` no RESET marker was taken back, and the register table changed only if one was added. -/
def RegKeptUnlessReset (s t : State) : Prop :=
  resetCount s ≤ resetCount t ∧ (resetCount t = resetCount s → t.reg = s.reg)

theorem RegKeptUnlessReset.refl (s : State) : RegKeptUnlessReset s s := ⟨le_rfl, fun _ => rfl⟩

/-- An operation that cannot write registers changes them only by a reset, which leaves its marker. -/
theorem RegKeptUnlessReset.after_exec {s u t : State} {i : Instr} (hsu : RegKeptUnlessReset s u)
    (hi : mayWriteRegisters i = false) (h : exec i u = .next t) : RegKeptUnlessReset s t := by
  obtain ⟨hle, hkept⟩ := hsu
  obtain ⟨-, hcount⟩ | ⟨hx, hcount⟩ := exec_resetCount h
  · exact ⟨by omega, fun heq => absurd heq (by omega)⟩
  · rw [RegKeptUnlessReset, hcount, exec_reg_of_not_mayWrite hi hx h]
    exact ⟨hle, hkept⟩

/-- A run of operations that cannot write registers, without a reset, keeps them (40_register_file.md R89, R93). -/
theorem execAll_reg {is : List Instr} {s t : State} (his : ∀ i ∈ is, mayWriteRegisters i = false)
    (h : execAll is s = .next t) (hcount : resetCount t = resetCount s) : t.reg = s.reg := by
  have hkept : RegKeptUnlessReset s t :=
    execAll_keeps (fun i hi _ _ hexec hsu => hsu.after_exec (his i hi) hexec) (.refl s) h
  exact hkept.2 hcount

/-- Only direct writes mark a clean latch (10_state.md R23; 41_host_commands.md R116): a host write consumes the latch
it evaluates, and a reset leaves a clean one. -/
theorem exec_clean {i : Instr} {s t : State} (hw : ∀ a v, i ≠ .write a v) (hb : ∀ a vs, i ≠ .writeBlock a vs)
    (h : exec i s = .next t) (hc : s.tl.dirty = false) : t.tl.dirty = false := by
  cases exec_effect h with
  | write a v => exact absurd rfl (hw a v)
  | writeBlock a vs => exact absurd rfl (hb a vs)
  | command head p => exact (runPdu_keeps head p s.begin).clean hc
  | chunk c => exact (acceptChunk_keeps c s.begin).clean hc
  | consume => rfl
  | advance d =>
    by_cases hx : Expires d s
    · rw [advanceTime_expires hx]; rfl
    · rw [advanceTime_eq hx]; exact hc
  | display | scan | supervise | init => simpa using hc
  | answer | render | publish | blocked | connect | disconnect | kick | reload => exact hc

/-- A run of operations that cannot write registers keeps a clean latch clean. -/
theorem execAll_clean {is : List Instr} {s t : State} (his : ∀ i ∈ is, mayWriteRegisters i = false)
    (h : execAll is s = .next t) (hc : s.tl.dirty = false) : t.tl.dirty = false := by
  refine execAll_keeps (P := fun u => u.tl.dirty = false) (fun i hi _ _ hexec => exec_clean ?_ ?_ hexec) hc h
  · rintro a v rfl
    cases his _ hi
  · rintro a vs rfl
    cases his _ hi

/-- Settles O17: the run keeps the stored table, and the latch the first consume left clean. -/
theorem blockWriteReadsBack : Obligations.BlockWriteReadsBack := by
  refine ⟨fun s a vs hvs ha => ⟨_, exec_writeBlock_inside hvs ha s, fun is t' his hrun hcount => ?_⟩,
    fun s => ⟨_, exec_consumeChangedTime s, fun is t' his hrun => ?_⟩⟩
  · have hread : t'.regsAt a vs.length = vs := regsAt_of_reg_eq_storeRegs (execAll_reg his hrun hcount) ha
    refine ⟨_, exec_readBlock a (List.length_pos_iff.mpr hvs) t', ?_⟩
    rw [if_pos ha, hread]
    rfl
  · have hclean : t'.tl.dirty = false := execAll_clean his hrun rfl
    exact ⟨_, exec_consumeChangedTime_of_clean hclean, rfl⟩

end Sys2Proof.Machine
end

section
/-! O29, O30, O56: the connection operations where they are enabled and where they are not (41_host_commands.md R106,
R122 to R124), and the latch between the block's own steps (R116). -/

namespace Sys2Proof.Machine

/-- CONNECT takes effect exactly while CONN is closed (41_host_commands.md R122). -/
theorem exec_connect (s : State) : exec .connect s = .next (if s.conn = .closed then
    { s with conn := .opened, buf := [], outs := [.ok .unit] } else { s with outs := [] }) := by
  cases hc : s.conn <;> simp [exec, execConnect, hc, State.done, State.begin]

/-- DISCONNECT takes effect exactly while CONN is open (41_host_commands.md R123). -/
theorem exec_disconnect (s : State) : exec .disconnect s = .next (if s.conn = .opened then
    { s with conn := .closed, buf := [], outs := [.ok .unit] } else { s with outs := [] }) := by
  cases hc : s.conn <;> simp [exec, execDisconnect, hc, State.done, State.begin]

/-- RECEIVE_CHUNK takes no step while CONN is closed (41_host_commands.md R106; log 5). -/
theorem exec_receiveChunk_closed {s : State} (hc : s.conn = .closed) (c : List Byte) :
    exec (.receiveChunk c) s = .next { s with outs := [] } := by
  simp [exec, execReceiveChunk, hc, State.begin]

/-- Settles O29: both operations at the connection state that enables them; PROTO_IDLE is a kick and its outcome. -/
theorem connectionSteps : Obligations.ConnectionSteps := by
  refine fun s => ⟨fun hc => ?_, fun ho => ?_, rfl⟩
  · rw [exec_connect, if_pos hc]
  · rw [exec_disconnect, if_pos ho]

/-- Settles O30: the three operations at the connection state that does not enable them. -/
theorem stepsNotEnabledChangeNothing : Obligations.StepsNotEnabledChangeNothing := by
  refine fun s => ⟨fun ho => ?_, fun hc => ?_, exec_receiveChunk_closed⟩
  · rw [exec_connect, if_neg (by simp [ho])]
  · rw [exec_disconnect, if_neg (by simp [hc])]

/-- Settles O56: `exec_clean` for an operation; in the block's own schedule no direct write is a step
(40_register_file.md R89), and a read of the supervisor leaves the latch. -/
theorem latchCleanBetweenBlockSteps : Obligations.LatchCleanBetweenBlockSteps := by
  refine ⟨fun i s t hw hb hc h => exec_clean hw hb h hc, fun s t hsched hc h => ?_⟩
  obtain ⟨-, -, ⟨-, rfl⟩ | ⟨r, more, i, hp, hi, hexec⟩ | ⟨more, -, rfl⟩⟩ := step_next h
  · exact hc
  · rw [BlockSchedule, hp] at hsched
    have htaken : blockTakes s i = true := by simpa [turnTaken, hi] using hsched.1
    refine exec_clean ?_ ?_ hexec hc
    · rintro a v rfl
      cases htaken
    · rintro a vs rfl
      cases htaken
  · rwa [superviseRead_tl]

end Sys2Proof.Machine
end

section
/-! O21 to O24: what each host command sends and changes (41_host_commands.md R111 to R114). The effect of a command is
said once, for any state it runs in, and each step is that effect from an empty list of outcomes. -/

namespace Sys2Proof.Machine

/-! ### Replies -/

/-- The frame of an exception reply, byte by byte (30_encoding.md R78). -/
theorem frameBytes_exception (h : FrameHead) (fc code : Byte) :
    frameBytes h [fc, code] = bytes16 h.tid ++ [0, 0, 0, 3, h.uid, fc, code] :=
  frameBytes_short h [fc, code] (by simp)

/-- An exception as the one outcome of a step: its reply, and nothing else (60_exceptions.md R154). -/
theorem raiseExc_begin (h : FrameHead) (fc code : Byte) (s : State) : raiseExc h fc code s.begin = { s with
    rt := s.rt ++ [.item (bytes16 h.tid ++ [0, 0, 0, 3, h.uid, fc ||| 0x80, code])], outs := [.exc code] } := by
  rw [← frameBytes_exception]
  rfl

/-- The frame of the echo of two fields, which both write commands reply with (41_host_commands.md R112, R113). -/
theorem frameBytes_echo (h : FrameHead) (fc : Byte) (x y : U16) :
    frameBytes h (fc :: (bytes16 x ++ bytes16 y)) =
      bytes16 h.tid ++ [0, 0, 0, 6, h.uid, fc] ++ bytes16 x ++ bytes16 y := by
  rw [frameBytes_short h _ (by simp)]
  rfl

/-- A write, AfterWrite and the reply leave what R112, R116, R117 and R118 write out. -/
theorem replyOk_afterWrite_begin (h : FrameHead) (rpdu : List Byte) (a : Nat) (vs : List U16) (s : State) :
    replyOk h rpdu (afterWrite (storeAndEval a vs s.begin)) =
      hostWriteResult s (storeRegs s.reg a vs) a (frameBytes h rpdu) := by
  rw [afterWrite_eq, storeAndEval_eq]
  simp only [hostWriteResult, ite_and]
  rfl

/-! ### UNSUPPORTED -/

/-- Settles O24: the command raises exception 0x01. -/
theorem unsupportedReplies : Obligations.UnsupportedReplies :=
  fun s h fc => congrArg Host.Outcome.next (raiseExc_begin h fc 0x01 s)

/-! ### READ_REGISTERS -/

/-- The quantities that raise exception 0x03 (41_host_commands.md R111). -/
theorem readQtyLegal_eq_false (r : ReadReq) : readQtyLegal r = false ↔ r.qty.toNat = 0 ∨ 126 ≤ r.qty.toNat := by
  rw [readQtyLegal, Bool.and_eq_false_iff, decide_eq_false_iff_not, decide_eq_false_iff_not]
  omega

/-- The read command: the quantity is checked first, then the range (41_host_commands.md R111). -/
theorem exec_readRegisters (h : FrameHead) (r : ReadReq) (s : State) :
    exec (.readRegisters h (some r)) s = .next (
      if readQtyLegal r = false then raiseExc h 0x03 0x03 s.begin
      else if r.addr.toNat + r.qty.toNat ≤ 32 then
        replyOk h (0x03 :: BitVec.ofNat 8 (2 * r.qty.toNat) ::
          (s.regsAt r.addr.toNat r.qty.toNat).flatMap bytes16) s.begin
      else raiseExc h 0x03 0x02 s.begin) := by
  have hregs : s.begin.regsAt r.addr.toNat r.qty.toNat = s.regsAt r.addr.toNat r.qty.toNat := rfl
  by_cases ha : r.addr.toNat + r.qty.toNat ≤ 32 <;>
    simp [exec, execReadRegisters, runReadRegisters, storeReadBlock, ha, hregs]

/-- The frame of the reply to a read of `q` registers (30_encoding.md R75). -/
theorem frameBytes_readReply (h : FrameHead) {q : Nat} {vs : List U16} (hvs : vs.length = q) :
    frameBytes h (0x03 :: BitVec.ofNat 8 (2 * q) :: vs.flatMap bytes16) =
      bytes16 h.tid ++ [0, 0] ++ bytes16 (BitVec.ofNat 16 (3 + 2 * q)) ++
        [h.uid, 0x03, BitVec.ofNat 8 (2 * q)] ++ vs.flatMap bytes16 := by
  have hlen : 2 + (BitVec.ofNat 8 (2 * q) :: vs.flatMap bytes16).length = 3 + 2 * q := by
    rw [List.length_cons, flatMap_bytes16_length, hvs]; omega
  rw [frameBytes_cons, hlen]
  simp only [List.append_assoc, List.cons_append, List.nil_append]

/-- Settles O21: the three outcomes are the branches of the command, and the values sent are the range's. -/
theorem readRegistersReplies : Obligations.ReadRegistersReplies := by
  refine fun s h => ⟨fun a q => ⟨fun hq => ?_, fun h1 h125 hout => ?_, fun h1 hin => ?_⟩, rfl⟩
  · rw [exec_readRegisters, if_pos ((readQtyLegal_eq_false _).mpr hq), raiseExc_begin]
    rfl
  · rw [exec_readRegisters, if_neg (mt (readQtyLegal_eq_false _).mp (by dsimp only; omega)),
      if_neg (Nat.not_le.mpr hout), raiseExc_begin]
    rfl
  · refine ⟨s.regsAt a.toNat q.toNat, s.regsAt_length _ _, fun i hi => s.regsAt_getElem? _ _ i hi hin, ?_⟩
    rw [exec_readRegisters, if_neg (mt (readQtyLegal_eq_false _).mp (by dsimp only; omega)), if_pos hin,
      ← frameBytes_readReply h (s.regsAt_length _ _)]
    rfl

/-! ### WRITE_SINGLE -/

/-- The write single command inside and outside the table (41_host_commands.md R112). -/
theorem exec_writeSingle (h : FrameHead) (r : WriteReq) (s : State) :
    exec (.writeSingle h (some r)) s = .next (
      if r.addr.toNat < 32 then
        hostWriteResult s (storeRegs s.reg r.addr.toNat [r.value]) r.addr.toNat
          (frameBytes h (0x06 :: (bytes16 r.addr ++ bytes16 r.value)))
      else raiseExc h 0x06 0x02 s.begin) := by
  rw [← replyOk_afterWrite_begin]
  by_cases ha : r.addr.toNat < 32 <;> simp [exec, execWriteSingle, runWriteSingle, storeWrite, ha]

/-- Settles O22: both outcomes are the branches of the command, and the stored table differs at the address alone. -/
theorem writeSingleEffect : Obligations.WriteSingleEffect := by
  refine fun s h => ⟨fun a v => ⟨fun hout => ?_, fun hin => ?_⟩, rfl⟩
  · rw [exec_writeSingle, if_neg (Nat.not_lt.mpr hout), raiseExc_begin]
    rfl
  · rw [exec_writeSingle, if_pos hin, storeRegs_single _ _ _ hin, frameBytes_echo]

/-! ### WRITE_MULTIPLE -/

/-- The requests that raise exception 0x03 (41_host_commands.md R113). -/
theorem writeManyLegal_eq_false (r : WriteManyReq) : writeManyLegal r = false ↔ r.qty.toNat = 0 ∨
    124 ≤ r.qty.toNat ∨ r.bc.toNat ≠ 2 * r.qty.toNat ∨ r.data.length < r.bc.toNat := by
  simp only [writeManyLegal, Bool.and_eq_false_iff, decide_eq_false_iff_not]
  omega

/-- A legal request holds as many values as its quantity says (30_encoding.md R72). -/
theorem writeManyValues_length (r : WriteManyReq) (hbc : r.bc.toNat = 2 * r.qty.toNat)
    (hdata : r.bc.toNat ≤ r.data.length) : (writeManyValues r).length = r.qty.toNat := by
  rw [writeManyValues, wordsOf_length, List.length_take]
  omega

/-- Value i of a legal request is made of its value bytes 2i and 2i+1 (30_encoding.md R72). -/
theorem writeManyValues_getElem? {r : WriteManyReq} (hbc : r.bc.toNat = 2 * r.qty.toNat) {i : Nat} {b0 b1 : Byte}
    (hi : i < r.qty.toNat) (h0 : r.data[2 * i]? = some b0) (h1 : r.data[2 * i + 1]? = some b1) :
    (writeManyValues r)[i]? = some (be16 b0 b1) := by
  refine wordsOf_getElem? _ i b0 b1 ?_ ?_
  · rwa [List.getElem?_take_of_lt (by omega)]
  · rwa [List.getElem?_take_of_lt (by omega)]

/-- The write multiple command: the quantity, byte count and value bytes are checked first, then the range
(41_host_commands.md R113). -/
theorem exec_writeMultiple (h : FrameHead) (r : WriteManyReq) (s : State) :
    exec (.writeMultiple h (some r)) s = .next (
      if writeManyLegal r = false then raiseExc h 0x10 0x03 s.begin
      else if r.addr.toNat + (writeManyValues r).length ≤ 32 then
        hostWriteResult s (storeRegs s.reg r.addr.toNat (writeManyValues r)) r.addr.toNat
          (frameBytes h (0x10 :: (bytes16 r.addr ++ bytes16 r.qty)))
      else raiseExc h 0x10 0x02 s.begin) := by
  rw [← replyOk_afterWrite_begin]
  by_cases ha : r.addr.toNat + (writeManyValues r).length ≤ 32 <;>
    simp [exec, execWriteMultiple, runWriteMultiple, storeWriteBlock, ha]

/-- Settles O23: the three outcomes are the branches of the command; the stored table is the one `storeRegs_getElem?`
describes, with the values of the request. -/
theorem writeMultipleEffect : Obligations.WriteMultipleEffect := by
  refine fun s h => ⟨fun a q bc data =>
    ⟨fun hbad => ?badRequest, fun h1 h123 hbc hdata hout => ?outside, fun h1 hbc hdata hin => ?inside⟩, rfl⟩
  case badRequest =>
    rw [exec_writeMultiple, if_pos ((writeManyLegal_eq_false _).mpr hbad), raiseExc_begin]
    rfl
  case outside =>
    have hlen := writeManyValues_length ⟨a, q, bc, data⟩ hbc hdata
    rw [exec_writeMultiple, if_neg (mt (writeManyLegal_eq_false _).mp (by dsimp only; omega)),
      if_neg (by rw [hlen]; exact Nat.not_le.mpr hout), raiseExc_begin]
    rfl
  case inside =>
    have hlen := writeManyValues_length ⟨a, q, bc, data⟩ hbc hdata
    have hstored := storeRegs_getElem? s.reg a.toNat (writeManyValues ⟨a, q, bc, data⟩)
    rw [hlen] at hstored
    refine ⟨storeRegs s.reg a.toNat (writeManyValues ⟨a, q, bc, data⟩), fun i b0 b1 hi h0 h1 => ?_,
      fun i hi hrange => ?_, ?_⟩
    · rw [hstored _ (by omega), if_pos (by dsimp only; omega), Nat.add_sub_cancel_left]
      exact writeManyValues_getElem? hbc hi h0 h1
    · rw [hstored i hi, if_neg (by dsimp only; omega)]
    · rw [exec_writeMultiple, if_neg (mt (writeManyLegal_eq_false _).mp (by dsimp only; omega)),
        if_pos (by rw [hlen]; exact hin), frameBytes_echo]

end Sys2Proof.Machine
end

section
/-! O26 to O28: RECEIVE_CHUNK (41_host_commands.md R106 to R110, R120). What detection says of a header, what one frame
at the front of the buffer does, and from these the chunk that holds whole commands and the chunk that is cut in two. -/

namespace Sys2Proof

/-! ### Frame detection on a header -/

/-- A header with a protocol id or a length that is not legal is bad, whatever follows it (41_host_commands.md R108). -/
theorem detectFrame_bad {t0 t1 p0 p1 l0 l1 uid : Byte} {body : List Byte}
    (h : be16 p0 p1 ≠ 0 ∨ (be16 l0 l1).toNat < 2 ∨ 253 < (be16 l0 l1).toNat) :
    detectFrame (t0 :: t1 :: p0 :: p1 :: l0 :: l1 :: uid :: body) = .bad :=
  if_pos h

/-- A legal header waits for the rest of its 6 + LEN bytes (41_host_commands.md R108). -/
theorem detectFrame_incomplete {t0 t1 p0 p1 l0 l1 uid : Byte} {body : List Byte} (hp : be16 p0 p1 = 0)
    (h2 : 2 ≤ (be16 l0 l1).toNat) (h253 : (be16 l0 l1).toNat ≤ 253)
    (hlen : (t0 :: t1 :: p0 :: p1 :: l0 :: l1 :: uid :: body).length < 6 + (be16 l0 l1).toNat) :
    detectFrame (t0 :: t1 :: p0 :: p1 :: l0 :: l1 :: uid :: body) = .wait := by
  have hlegal : ¬ (be16 p0 p1 ≠ 0 ∨ (be16 l0 l1).toNat < 2 ∨ 253 < (be16 l0 l1).toNat) := by
    rw [not_or, not_not]; exact ⟨hp, by omega⟩
  refine (if_neg hlegal).trans ?_
  cases body with
  | nil => rfl
  | cons fc more =>
    simp only [List.length_cons] at hlen
    exact if_pos (by omega)

/-- A legal frame that is cut short waits, wherever the cut is. -/
theorem detectFrame_take {t0 t1 p0 p1 l0 l1 uid : Byte} {body : List Byte} {k : Nat} (hp : be16 p0 p1 = 0)
    (h2 : 2 ≤ (be16 l0 l1).toNat) (h253 : (be16 l0 l1).toNat ≤ 253) (hk : k < 6 + (be16 l0 l1).toNat) :
    detectFrame ((t0 :: t1 :: p0 :: p1 :: l0 :: l1 :: uid :: body).take k) = .wait := by
  by_cases h7 : k < 7
  · exact detectFrame_short _ (lt_of_le_of_lt (List.length_take_le _ _) h7)
  · obtain ⟨j, rfl⟩ := Nat.exists_eq_add_of_le' (Nat.not_lt.mp h7)
    refine detectFrame_incomplete hp h2 h253 (lt_of_le_of_lt ?_ hk)
    simp only [List.length_cons, List.length_take]
    omega

end Sys2Proof

namespace Sys2Proof.Machine

/-! ### One pass of ProcessBuffer -/

/-- A command that has its fields leaves buffer and liveness table and records one outcome, whatever they hold. -/
theorem runPdu_withPort_of_fields (h : FrameHead) {p : Pdu} (hp : pduMalformed p = false) (s : State) :
    ∃ out, ∀ b l o, runPdu h p (s.withPort b l o) = (runPdu h p s).withPort b l (o ++ [out]) := by
  simpa [hp] using runPdu_withPort h p s

theorem processBuffer_wait {s : State} (h : detectFrame s.buf = .wait) {fuel : Nat} (hf : 0 < fuel) :
    processBuffer fuel s = s.push (.ok .unit) := by
  obtain ⟨n, rfl⟩ := Nat.exists_eq_add_of_le' hf
  simp [processBuffer, h]

theorem processBuffer_bad {s : State} (h : detectFrame s.buf = .bad) {fuel : Nat} (hf : 0 < fuel) :
    processBuffer fuel s = resync .badHeader s := by
  obtain ⟨n, rfl⟩ := Nat.exists_eq_add_of_le' hf
  simp [processBuffer, h]

/-- A frame whose PDU is too short for its command ends the pass (41_host_commands.md R110). -/
theorem processBuffer_malformed {s : State} {h : FrameHead} {fc : Byte} {args rest : List Byte}
    (hd : detectFrame s.buf = .frame h fc args rest) (hm : pduMalformed (decodePdu fc args) = true) {fuel : Nat}
    (hf : 0 < fuel) : processBuffer fuel s = resync .malformed { s with buf := rest } := by
  obtain ⟨n, rfl⟩ := Nat.exists_eq_add_of_le' hf
  simp [processBuffer, hd, hm, runPdu_of_malformed]

/-- A frame whose command has its fields is taken off the buffer and run (41_host_commands.md R109, R110). -/
theorem processBuffer_frame {s : State} {h : FrameHead} {fc : Byte} {args rest : List Byte}
    (hd : detectFrame s.buf = .frame h fc args rest) (hm : pduMalformed (decodePdu fc args) = false) (fuel : Nat) :
    processBuffer (fuel + 1) s = processBuffer fuel (runPdu h (decodePdu fc args) { s with buf := rest }) := by
  simp [processBuffer, hd, hm]

/-! ### The chunk as an operation -/

/-- A chunk beyond BUF_CAP resyncs (41_host_commands.md R107). -/
theorem acceptChunk_of_overflow (c : List Byte) (s : State) (h : s.cfg.bufCap < s.buf.length + c.length) :
    acceptChunk c s = resync .overflow s := if_pos h

/-- A chunk within BUF_CAP is appended, and a pass follows (41_host_commands.md R106, R107). -/
theorem acceptChunk_of_fits (c : List Byte) (s : State) (h : s.buf.length + c.length ≤ s.cfg.bufCap) :
    acceptChunk c s = processBuffer ((s.buf ++ c).length + 1) { s with buf := s.buf ++ c } := by
  rw [acceptChunk, if_neg (Nat.not_lt.mpr h), List.length_append]

/-- RECEIVE_CHUNK while CONN is open: the chunk is accepted, then PROTO is kicked (41_host_commands.md R106). -/
theorem exec_receiveChunk_opened {s : State} (ho : s.conn = .opened) (c : List Byte) :
    exec (.receiveChunk c) s = .next (kickSlot .proto (acceptChunk c s.begin)) := by
  simp [exec, execReceiveChunk, ho]

/-- RECEIVE_CHUNK of a chunk that fits is a pass over the buffer with the chunk behind it, then the liveness kick
(41_host_commands.md R106, R107). -/
theorem exec_receiveChunk {s : State} (ho : s.conn = .opened) {c : List Byte}
    (hfit : s.buf.length + c.length ≤ s.cfg.bufCap) : exec (.receiveChunk c) s =
      .next (kickSlot .proto (processBuffer ((s.buf ++ c).length + 1) (s.withPort (s.buf ++ c) s.lt []))) := by
  rw [exec_receiveChunk_opened ho, acceptChunk_of_fits c s.begin hfit]
  rfl

/-- A chunk that does not fit clears the buffer (41_host_commands.md R107). -/
theorem exec_receiveChunk_overflow {s : State} (ho : s.conn = .opened) {c : List Byte}
    (hover : s.cfg.bufCap < s.buf.length + c.length) : exec (.receiveChunk c) s = .next { s with
      buf := [], lt := { s.lt with proto := s.now }, outs := [.resync .overflow] } := by
  rw [exec_receiveChunk_opened ho, acceptChunk_of_overflow c s.begin hover]
  rfl

/-- A chunk that completes no frame waits in the buffer (41_host_commands.md R108). -/
theorem exec_receiveChunk_wait {s : State} (ho : s.conn = .opened) {c : List Byte}
    (hfit : s.buf.length + c.length ≤ s.cfg.bufCap) (hd : detectFrame (s.buf ++ c) = .wait) :
    exec (.receiveChunk c) s = .next { s with
      buf := s.buf ++ c, lt := { s.lt with proto := s.now }, outs := [.ok .unit] } := by
  rw [exec_receiveChunk ho hfit, processBuffer_wait hd (Nat.succ_pos _)]
  rfl

/-- A chunk that completes a bad header clears the buffer (41_host_commands.md R108). -/
theorem exec_receiveChunk_bad {s : State} (ho : s.conn = .opened) {c : List Byte}
    (hfit : s.buf.length + c.length ≤ s.cfg.bufCap) (hd : detectFrame (s.buf ++ c) = .bad) :
    exec (.receiveChunk c) s = .next { s with
      buf := [], lt := { s.lt with proto := s.now }, outs := [.resync .badHeader] } := by
  rw [exec_receiveChunk ho hfit, processBuffer_bad hd (Nat.succ_pos _)]
  rfl

/-- Settles O26: an overflow by itself, and the other three by what detection says of the buffer and the chunk. -/
theorem receiveChunkFraming : Obligations.ReceiveChunkFraming := by
  refine fun s c ho => ⟨exec_receiveChunk_overflow ho, fun hfit =>
    ⟨fun hshort => exec_receiveChunk_wait ho hfit (detectFrame_short _ hshort),
      fun t0 t1 p0 p1 l0 l1 uid body hbuf => ⟨fun hbad => ?_, fun hp h2 h253 hlen => ?_⟩⟩⟩
  · exact exec_receiveChunk_bad ho hfit (hbuf ▸ detectFrame_bad hbad)
  · exact exec_receiveChunk_wait ho hfit (hbuf ▸ detectFrame_incomplete hp h2 h253 (hbuf ▸ hlen))

/-! ### A buffer of whole commands -/

theorem pduMalformed_of_parses {fc : Byte} {args : List Byte} (h : PduParses (fc :: args)) :
    pduMalformed (decodePdu fc args) = false :=
  Bool.eq_false_iff.mpr fun hm => (pduMalformed_decodePdu h.2.1).mp hm h

/-- The bytes of frames one after another, with their headers, function codes and arguments. -/
def framesBytes (fs : List (FrameHead × Byte × List Byte)) : List Byte :=
  fs.flatMap fun f => frameBytes f.1 (f.2.1 :: f.2.2)

/-- The commands that frames hold, in their order. -/
def framesInstrs (fs : List (FrameHead × Byte × List Byte)) : List Instr :=
  fs.map fun f => (decodePdu f.2.1 f.2.2).instr f.1

/-- A pass over whole commands and a rest leaves the commands executed one after another, and goes on at the rest; what
else stands in the buffer, the liveness table and the outcomes does not matter to them (41_host_commands.md R109). -/
theorem processBuffer_commands {fs : List (FrameHead × Byte × List Byte)}
    (hfs : ∀ f ∈ fs, PduParses (f.2.1 :: f.2.2)) (rest : List Byte) (l : Liveness) (s : State) (o : List OpOutcome)
    (fuel : Nat) (hfuel : (framesBytes fs ++ rest).length < fuel) :
    ∃ (u : State) (outs : List OpOutcome) (fuel' : Nat), 0 < fuel' ∧ execAll (framesInstrs fs) s = .next u ∧
      processBuffer fuel (s.withPort (framesBytes fs ++ rest) l o) =
        processBuffer fuel' (u.withPort rest l outs) := by
  induction fs generalizing s o fuel with
  | nil => exact ⟨s, o, fuel, Nat.zero_lt_of_lt hfuel, rfl, rfl⟩
  | cons f fs ih =>
    obtain ⟨h, fc, args⟩ := f
    obtain ⟨hparses, hfs⟩ := List.forall_mem_cons.mp hfs
    obtain ⟨n, rfl⟩ := Nat.exists_eq_add_of_le' (Nat.zero_lt_of_lt hfuel)
    have hbytes : framesBytes ((h, fc, args) :: fs) ++ rest
        = frameBytes h (fc :: args) ++ (framesBytes fs ++ rest) := by
      rw [framesBytes, List.flatMap_cons, List.append_assoc]; rfl
    have hargs : args.length ≤ 251 := Nat.le_of_succ_le_succ hparses.2.1
    have hmal := pduMalformed_of_parses hparses
    obtain ⟨out, hrun⟩ := runPdu_withPort_of_fields h hmal s
    rw [hbytes, List.length_append, frameBytes_length] at hfuel
    obtain ⟨u, outs, fuel', hpos, hexec, hpass⟩ :=
      ih hfs (runPdu h (decodePdu fc args) s.begin) (o ++ [out]) n (by omega)
    refine ⟨u, outs, fuel', hpos, ?_, ?_⟩
    · rw [framesInstrs, List.map_cons, execAll, exec_pdu]
      exact hexec
    · have hbegin : runPdu h (decodePdu fc args) s.begin
          = (runPdu h (decodePdu fc args) s).withPort s.buf s.lt [out] := hrun s.buf s.lt []
      rw [← hpass, hbegin, hbytes, processBuffer_frame (detectFrame_frameBytes h fc args _ hargs) hmal]
      exact congrArg (processBuffer n) (hrun (framesBytes fs ++ rest) l o)

/-- The frames of the statement, byte by byte, are the frames of their commands. -/
theorem framesBytes_eq (fs : List (FrameHead × Byte × List Byte)) :
    framesBytes fs = fs.flatMap fun f => bytes16 f.1.tid ++ [0, 0]
      ++ bytes16 (BitVec.ofNat 16 (2 + f.2.2.length)) ++ [f.1.uid, f.2.1] ++ f.2.2 := by
  simp only [framesBytes, ← frameBytes_cons]

/-- Settles O27: the pass runs the commands and comes to the rest, which waits, has a bad header, or begins with a
malformed frame; `now` is the one the pass began with, which no command changes. -/
theorem chunkRunsItsCommandsInOrder : Obligations.ChunkRunsItsCommandsInOrder := by
  intro s c fs rest ho hfit hfs hbuf
  rw [← framesBytes_eq] at hbuf
  obtain ⟨u, outs, fuel, hpos, hexec, hpass⟩ :=
    processBuffer_commands hfs rest s.lt s [] ((s.buf ++ c).length + 1) (by rw [hbuf]; exact Nat.lt_succ_self _)
  have hchunk := exec_receiveChunk ho hfit
  rw [hbuf] at hchunk hpass
  rw [hpass] at hchunk
  have hnow : u.now = s.now := by
    have hkept := (processBuffer_keeps fuel (u.withPort rest s.lt outs)).now
    rw [← hpass, (processBuffer_keeps _ _).now] at hkept
    exact hkept.symm
  refine ⟨_, u, hchunk, hexec, fun hd => ?waits, fun hd => ?badHeader, fun h fc args more hd hparses => ?malformed⟩
  case waits =>
    rw [processBuffer_wait hd hpos, ← hnow]
    exact ⟨List.getLast?_concat, rfl⟩
  case badHeader =>
    rw [processBuffer_bad hd hpos, ← hnow]
    exact ⟨List.getLast?_concat, rfl⟩
  case malformed =>
    have hargs : (fc :: args).length ≤ 252 := Nat.succ_le_succ (detectFrame_eq_frame hd).2
    rw [processBuffer_malformed hd ((pduMalformed_decodePdu hargs).mpr hparses) hpos, ← hnow]
    exact ⟨List.getLast?_concat, rfl⟩

/-! ### Fragmentation -/

/-- What a pass leaves does not depend on the liveness table, which it keeps (41_host_commands.md R110). -/
theorem processBuffer_withPort (fuel : Nat) (s : State) (b : List Byte) (o : List OpOutcome) :
    ∃ (t : State) (b' : List Byte) (o' : List OpOutcome),
      ∀ l, processBuffer fuel (s.withPort b l o) = t.withPort b' l o' := by
  induction fuel generalizing s b o with
  | zero => exact ⟨s, b, o ++ [.ok .unit], fun _ => rfl⟩
  | succ fuel ih =>
    cases hd : detectFrame b with
    | wait => exact ⟨s, b, o ++ [.ok .unit], fun l => processBuffer_wait hd fuel.succ_pos⟩
    | bad => exact ⟨s, [], o ++ [.resync .badHeader], fun l => processBuffer_bad hd fuel.succ_pos⟩
    | frame h fc args rest =>
      cases hm : pduMalformed (decodePdu fc args) with
      | true => exact ⟨s, [], o ++ [.resync .malformed], fun l => processBuffer_malformed hd hm fuel.succ_pos⟩
      | false =>
        obtain ⟨out, hrun⟩ := runPdu_withPort_of_fields h hm s
        obtain ⟨t, b', o', hpass⟩ := ih (runPdu h (decodePdu fc args) s) rest (o ++ [out])
        refine ⟨t, b', o', fun l => ?_⟩
        rw [← hpass, ← hrun]
        exact processBuffer_frame hd hm fuel

/-- After the kick of PROTO, an earlier kick of it before the pass does not matter (60_exceptions.md R165). -/
theorem kickSlot_processBuffer_put (fuel : Nat) (s : State) (b : List Byte) (l : Liveness) (n : Nat)
    (o : List OpOutcome) : kickSlot .proto (processBuffer fuel (s.withPort b (l.put n .proto) o)) =
      kickSlot .proto (processBuffer fuel (s.withPort b l o)) := by
  obtain ⟨t, b', o', hpass⟩ := processBuffer_withPort fuel s b o
  rw [hpass, hpass]
  rfl

/-- A chunk cut behind bytes that wait for more leaves, delivered in two, the state it leaves delivered whole
(41_host_commands.md R120). -/
theorem exec_receiveChunk_append {s : State} (ho : s.conn = .opened) (c d : List Byte)
    (hfit : s.buf.length + (c ++ d).length ≤ s.cfg.bufCap) (hd : detectFrame (s.buf ++ c) = .wait) :
    ∃ t u : State, exec (.receiveChunk (c ++ d)) s = .next t ∧ exec (.receiveChunk c) s = .next u ∧
      exec (.receiveChunk d) u = .next t := by
  have hlen : (c ++ d).length = c.length + d.length := List.length_append
  have hwhole := exec_receiveChunk ho hfit
  rw [← List.append_assoc] at hwhole
  refine ⟨_, _, hwhole, exec_receiveChunk_wait ho (by omega) hd, (exec_receiveChunk ?_ ?_).trans ?_⟩
  · exact ho
  · rw [List.length_append]; dsimp only; omega
  · exact congrArg Host.Outcome.next (kickSlot_processBuffer_put _ s _ s.lt s.now [])

/-- Settles O28: a legal frame waits wherever it is cut, so both deliveries leave the same state. -/
theorem fragmentationDoesNotMatter : Obligations.FragmentationDoesNotMatter := by
  intro s t0 t1 l0 l1 uid body k ho hbuf hcap h2 h253 hlen _ hk
  have hwait : detectFrame (s.buf ++ (t0 :: t1 :: 0 :: 0 :: l0 :: l1 :: uid :: body).take k) = .wait := by
    rw [hbuf]
    exact detectFrame_take (by decide) h2 h253 (by omega)
  obtain ⟨t, u, hwhole, hfirst, hsecond⟩ :=
    exec_receiveChunk_append ho _ ((t0 :: t1 :: 0 :: 0 :: l0 :: l1 :: uid :: body).drop k)
      (by rw [List.take_append_drop, hbuf]; simp only [List.length_cons, List.length_nil]; omega) hwait
  rw [List.take_append_drop] at hwhole
  exact ⟨t, u, t, hwhole, hfirst, hsecond, rfl, rfl, rfl, rfl, rfl⟩

end Sys2Proof.Machine
end

section
/-! The display task (42_display_render.md R128 to R139): what RENDER draws and how its operands are clamped, PUBLISH and
DISPLAY_STEP, and O31 to O34 from them. -/

namespace Sys2Proof.Machine

/-! ### RENDER -/

/-- A digit drawn at Y_OFF lights the pixels its glyph covers and no other (42_display_render.md R131, R132). -/
theorem bitmapGet_drawGlyph {cfg : Config} {b : Bitmap} (hb : Shaped cfg.width b) (d : Nat) (x0 : Int) {y x : Nat}
    (hy : y < 16) (hx : x < cfg.width) :
    bitmapGet (drawGlyph cfg d x0 cfg.yOff b) y x = true ↔ bitmapGet b y x = true ∨ GlyphCovers cfg d x0 y x := by
  obtain ⟨-, hget⟩ := drawGlyph_get cfg d x0 cfg.yOff y x b hb hy hx
  rw [hget, glyphCovers_iff]

/-- RENDER lights the pixels of the five digits on a dark bitmap (42_display_render.md R133). -/
theorem bitmapGet_renderBitmap (cfg : Config) (m sec : U16) {y x : Nat} (hy : y < 16) (hx : x < cfg.width) :
    bitmapGet (renderBitmap cfg m sec) y x = true ↔
      GlyphCovers cfg (minuteDigit m 2) cfg.xMin0 y x ∨ GlyphCovers cfg (minuteDigit m 1) cfg.xMin1 y x ∨
      GlyphCovers cfg (minuteDigit m 0) cfg.xMin2 y x ∨ GlyphCovers cfg (secondDigit sec 1) cfg.xSec0 y x ∨
      GlyphCovers cfg (secondDigit sec 0) cfg.xSec1 y x := by
  have h0 : Shaped cfg.width (Bitmap.blank cfg.width) := blank_shaped _
  have h1 := drawGlyph_shaped cfg (minuteDigit m 2) cfg.xMin0 cfg.yOff h0
  have h2 := drawGlyph_shaped cfg (minuteDigit m 1) cfg.xMin1 cfg.yOff h1
  have h3 := drawGlyph_shaped cfg (minuteDigit m 0) cfg.xMin2 cfg.yOff h2
  have h4 := drawGlyph_shaped cfg (secondDigit sec 1) cfg.xSec0 cfg.yOff h3
  rw [renderBitmap, bitmapGet_drawGlyph h4 _ _ hy hx, bitmapGet_drawGlyph h3 _ _ hy hx,
    bitmapGet_drawGlyph h2 _ _ hy hx, bitmapGet_drawGlyph h1 _ _ hy hx, bitmapGet_drawGlyph h0 _ _ hy hx,
    bitmapGet_blank]
  simp only [Bool.false_eq_true, false_or, or_assoc]

theorem exec_render (m sec : U16) (s : State) :
    exec (.render m sec) s = .next { s with rb := renderBitmap s.cfg m sec, outs := [.ok .unit] } := rfl

/-- Settles O31: RB is the rendered bitmap, which has PB's shape and the pixels of the five digits. -/
theorem renderDrawsTheDigits : Obligations.RenderDrawsTheDigits := fun s m sec =>
  ⟨renderBitmap s.cfg m sec, exec_render m sec s, renderBitmap_shaped s.cfg m sec,
    fun _ _ hy hx => bitmapGet_renderBitmap s.cfg m sec hy hx⟩

/-- RENDER sees of its operands the clamped ones only (42_display_render.md R128). -/
theorem exec_render_congr {m m' sec sec' : U16} (hm : clampMinutes m = clampMinutes m')
    (hsec : clampSeconds sec = clampSeconds sec') (s : State) :
    exec (.render m sec) s = exec (.render m' sec') s := by
  have hdraw : renderBitmap s.cfg m sec = renderBitmap s.cfg m' sec' := by
    simp only [renderBitmap, minuteDigit, secondDigit, hm, hsec]
  rw [exec_render, exec_render, hdraw]

/-- Settles O32: an operand above its limit clamps to what the limit clamps to. -/
theorem renderClampsItsOperands : Obligations.RenderClampsItsOperands := by
  intro s m sec
  refine ⟨fun hm => exec_render_congr ?_ rfl s, fun hsec => exec_render_congr rfl ?_ s⟩
  · exact Nat.min_eq_right hm.le
  · exact Nat.min_eq_right hsec.le

/-! ### PUBLISH and DISPLAY_STEP -/

/-- Settles O33: PUBLISH copies RB and records its outcome. -/
theorem publishCopiesTheBuffer : Obligations.PublishCopiesTheBuffer := fun _ => rfl

/-- With a notification the display task takes the oldest, renders it and publishes (42_display_render.md R136). -/
theorem displayWork_of_nq_cons {s : State} {p : U16 × U16} {more : List (U16 × U16)} (h : s.nq = p :: more) :
    displayWork s = publishBuffer (renderTo p.1 p.2 { s with nq := more }) := by
  unfold displayWork
  rw [h]

theorem exec_displayStep (s : State) :
    exec .displayStep s = .next ((kickSlot .display (displayWork s)).done (.ok .unit)) := rfl

/-- Settles O34: the display task's work on an empty queue and on one with an oldest pair, then the kick
(42_display_render.md R139). -/
theorem displayStepRendersTheOldest : Obligations.DisplayStepRendersTheOldest := by
  intro s
  refine ⟨fun hnil => ?_, fun p more hcons => ⟨_, exec_render p.1 p.2 s, ?_⟩⟩
  · rw [exec_displayStep, displayWork_of_nq_nil hnil]; rfl
  · rw [exec_displayStep, displayWork_of_nq_cons hcons]; rfl

end Sys2Proof.Machine
end

section
/-! O36: DISPLAY and SCAN neither read nor write the registers and the latch (42_display_render.md R138, 20_memory.md
R59). Their operations commute with replacing both, and that they write neither follows: replace them by themselves. -/

namespace Sys2Proof.Machine

/-- A state with its registers and its latch replaced. -/
def State.withRegisters (s : State) (r : Vector U16 32) (tl : TimeLatch) : State := { s with reg := r, tl := tl }

section

variable (s : State) (r : Vector U16 32) (tl : TimeLatch)

theorem displayWork_withRegisters : displayWork (s.withRegisters r tl) = (displayWork s).withRegisters r tl := by
  cases hq : s.nq with
  | nil =>
    have hq' : (s.withRegisters r tl).nq = [] := hq
    rw [displayWork_of_nq_nil hq, displayWork_of_nq_nil hq']
  | cons p more =>
    have hq' : (s.withRegisters r tl).nq = p :: more := hq
    rw [displayWork_of_nq_cons hq, displayWork_of_nq_cons hq']
    rfl

theorem emitAll_withRegisters (es : List PinEvent) :
    emitAll (s.withRegisters r tl) es = (emitAll s es).withRegisters r tl := by
  induction es generalizing s with
  | nil => rfl
  | cons e es ih => exact ih (emit s e)

theorem scanRow_withRegisters : scanRow (s.withRegisters r tl) = (scanRow s).withRegisters r tl := by
  have hemit := emitAll_withRegisters s r tl (scanEvents s.srow (shiftSeq s.cfg s.pb s.srow))
  exact congrArg (fun u : State => { u with srow := (s.srow + 1) % s.cfg.scanRows }) hemit

theorem noteOverrun_withRegisters : noteOverrun (s.withRegisters r tl) = (noteOverrun s).withRegisters r tl := by
  have hcfg : (s.withRegisters r tl).cfg = s.cfg := rfl
  unfold noteOverrun
  rw [hcfg]
  split <;> rfl

end

/-- The operations of DISPLAY and SCAN (30_encoding.md R84). -/
theorem eq_of_display_or_scan {i : Instr} (h : .display ∈ agentsOf i ∨ .scan ∈ agentsOf i) :
    (∃ m sec, i = .render m sec) ∨ i = .publish ∨ i = .displayStep ∨ i = .scanStep ∨ i = .kick .display := by
  cases i with
  | render m sec => exact .inl ⟨m, sec, rfl⟩
  | kick slot => cases slot <;> simp [agentsOf] at h ⊢
  | publish | displayStep | scanStep => simp
  | _ => simp [agentsOf, registerReaders] at h

/-- An operation of DISPLAY or SCAN answers the same next state from any registers and latch, with those. -/
theorem exec_withRegisters {i : Instr} (hi : .display ∈ agentsOf i ∨ .scan ∈ agentsOf i) (s : State) :
    ∃ t, exec i s = .next t ∧ ∀ r tl, exec i (s.withRegisters r tl) = .next (t.withRegisters r tl) := by
  obtain ⟨m, sec, rfl⟩ | rfl | rfl | rfl | rfl := eq_of_display_or_scan hi
  · exact ⟨_, rfl, fun _ _ => rfl⟩
  · exact ⟨_, rfl, fun _ _ => rfl⟩
  · exact ⟨_, rfl, fun r tl => by rw [exec_displayStep, displayWork_withRegisters]; rfl⟩
  · refine ⟨noteOverrun (scanRow s), rfl, fun r tl => ?_⟩
    rw [← noteOverrun_withRegisters, ← scanRow_withRegisters]
    rfl
  · exact ⟨_, rfl, fun _ _ => rfl⟩

/-- Settles O36: the next state from the replaced registers is `exec_withRegisters`; replacing them by themselves shows
that the operation writes none. -/
theorem displayAndScanIgnoreRegisters : Obligations.DisplayAndScanIgnoreRegisters := by
  intro i s r tl hi
  obtain ⟨t, hexec, hwith⟩ := exec_withRegisters hi s
  have hself : t = t.withRegisters s.reg s.tl := Host.Outcome.next.inj (hexec.symm.trans (hwith s.reg s.tl))
  have hreg : t.reg = (t.withRegisters s.reg s.tl).reg := congrArg State.reg hself
  have htl : t.tl = (t.withRegisters s.reg s.tl).tl := congrArg State.tl hself
  exact ⟨t, hexec, hreg, htl, hwith r tl⟩

end Sys2Proof.Machine
end

section
/-! O38, O39: the fold and the shift sequence (43_scan_engine.md R142, R144, R145). -/

namespace Sys2Proof.Machine

theorem shiftLen_of_fold_mod {cfg : Config} (hf : cfg.fold = .mod) : cfg.shiftLen = cfg.width := by
  simp [Config.shiftLen, hf]

theorem shiftLen_of_fold_other {cfg : Config} {len : Nat} {rows : List (List PixelExpr)}
    (hf : cfg.fold = .other len rows) : cfg.shiftLen = len := by
  simp [Config.shiftLen, hf]

/-- The entry of a table that has one for this scan row and column (log 11). -/
theorem foldEntry_of_getElem? {rows : List (List PixelExpr)} {row : List PixelExpr} {s c : Nat} {e : PixelExpr}
    (hrow : rows[s]? = some row) (hentry : row[c]? = some e) : foldEntry rows s c = e := by
  simp [foldEntry, hrow, hentry]

theorem shiftSeq_msbFirst {cfg : Config} (ho : cfg.bitOrder = .msbFirst) (pb : Bitmap) (s : Nat) :
    shiftSeq cfg pb s = foldRow cfg pb s := by
  simp [shiftSeq, orderBits, ho]

theorem shiftSeq_reversed {cfg : Config} (ho : cfg.bitOrder = .reversed) (pb : Bitmap) (s : Nat) :
    shiftSeq cfg pb s = (foldRow cfg pb s).reverse := by
  simp [shiftSeq, orderBits, ho]

/-- Settles O38, from the column of each fold and the sequence of each bit order. -/
theorem shiftSequenceFoldsAndOrders : Obligations.ShiftSequenceFoldsAndOrders := by
  intro cfg pb s c hc
  refine ⟨fun hf => ?_, fun len rows row e hf hrow hentry => ?_, fun ho => ?_, fun ho => ?_⟩
  · exact foldRow_mod_getElem? cfg pb s c hf (by rwa [← shiftLen_of_fold_mod hf])
  · rw [foldRow_other_getElem? pb s c hf (by rwa [← shiftLen_of_fold_other hf]), foldEntry_of_getElem? hrow hentry]
  · rw [shiftSeq_msbFirst ho]
  · rw [shiftSeq_reversed ho, List.getElem?_reverse (by rwa [foldRow_length]), foldRow_length]

theorem scanRows_eq_four_or_eight (cfg : Config) : cfg.scanRows = 4 ∨ cfg.scanRows = 8 := by
  unfold Config.scanRows
  split <;> simp

/-- The logical rows that FOLD_MOD takes together are among the 16 (43_scan_engine.md R142, R144): R divides 16. -/
theorem foldedRow_lt (cfg : Config) {s g : Nat} (hs : s < cfg.scanRows) (hg : g < 16 / cfg.scanRows) :
    s + g * cfg.scanRows < 16 := by
  obtain hR | hR := scanRows_eq_four_or_eight cfg <;> rw [hR] at hs hg ⊢ <;> omega

/-- Logical row y is one of those that FOLD_MOD takes together into scan row y mod R (43_scan_engine.md R144). -/
theorem rowGroup_lt (cfg : Config) {y : Nat} (hy : y < 16) : y / cfg.scanRows < 16 / cfg.scanRows := by
  obtain hR | hR := scanRows_eq_four_or_eight cfg <;> rw [hR] <;> omega

/-- A lit pixel of logical row y is lit in scan row y mod R under FOLD_MOD. -/
theorem foldRow_mod_of_lit {cfg : Config} {pb : Bitmap} {y c : Nat} (hf : cfg.fold = .mod) (hc : c < cfg.width)
    (hy : y < 16) (hlit : bitmapGet pb y c = true) : (foldRow cfg pb (y % cfg.scanRows))[c]? = some true := by
  rw [foldRow_mod_getElem? cfg pb _ c hf hc]
  exact ⟨y / cfg.scanRows, rowGroup_lt cfg hy, by rwa [Nat.mul_comm, Nat.mod_add_div]⟩

/-- Settles O39: a scan row shows logical rows below 16 only, and each of the 16 is in scan row y mod R. -/
theorem foldModCoversEveryRow : Obligations.FoldModCoversEveryRow := by
  intro cfg pb c hf hc
  refine ⟨⟨?_, ?_⟩, fun y hy hlit => foldRow_mod_of_lit hf hc hy hlit⟩
  · rintro ⟨s, hs, hcol⟩
    obtain ⟨g, hg, hlit⟩ := (foldRow_mod_getElem? cfg pb s c hf hc).mp hcol
    exact ⟨_, foldedRow_lt cfg hs hg, hlit⟩
  · rintro ⟨y, hy, hlit⟩
    exact ⟨_, Nat.mod_lt _ (scanRows_pos cfg), foldRow_mod_of_lit hf hc hy hlit⟩

end Sys2Proof.Machine
end

section
/-! O40, O41: the pins and the panel during a scan step and after it (43_scan_engine.md R147 to R150). The events of a
step are a blanking, a part that leaves OE alone, and the enabling. -/

namespace Sys2Proof.Machine

/-- The events of a scan step between the blanking and the enabling: address, shift, strobe (30_encoding.md R83). -/
def blankedEvents (row : Nat) (seq : List Bool) : List PinEvent :=
  .addr row :: seq.flatMap bitEvents ++ [.lat true, .lat false]

theorem scanEvents_eq (row : Nat) (seq : List Bool) :
    scanEvents row seq = .oe false :: (blankedEvents row seq ++ [.oe true]) := by
  simp [scanEvents, blankedEvents]

theorem oe_not_mem_blankedEvents (row : Nat) (seq : List Bool) (b : Bool) : .oe b ∉ blankedEvents row seq := by
  simp [blankedEvents, bitEvents]

/-- A proper non-empty part of a scan step's events blanks and then leaves OE alone (43_scan_engine.md R147). -/
theorem scanEvents_proper_part {row : Nat} {seq : List Bool} {pre post : List PinEvent}
    (h : scanEvents row seq = pre ++ post) (hpre : pre ≠ []) (hpost : post ≠ []) :
    ∃ more, pre = .oe false :: more ∧ ∀ b, .oe b ∉ more := by
  obtain ⟨e, more, rfl⟩ := List.exists_cons_of_ne_nil hpre
  rw [scanEvents_eq, List.cons_append, List.cons.injEq] at h
  obtain ⟨rfl, htail⟩ := h
  obtain rfl | ⟨init, last, rfl⟩ := post.eq_nil_or_concat'
  · exact absurd rfl hpost
  · rw [← List.append_assoc] at htail
    obtain ⟨hbody, -⟩ := List.append_inj' htail rfl
    exact ⟨more, rfl, fun b hb => oe_not_mem_blankedEvents row seq b (by simp [hbody, hb])⟩

/-- OE is 0 after every proper non-empty part of a scan step's events (43_scan_engine.md R147). -/
theorem emitAll_proper_part_oe (s : State) {row : Nat} {seq : List Bool} {pre post : List PinEvent}
    (h : scanEvents row seq = pre ++ post) (hpre : pre ≠ []) (hpost : post ≠ []) :
    (emitAll s pre).pins.oe = false := by
  obtain ⟨more, rfl, hmore⟩ := scanEvents_proper_part h hpre hpost
  rw [emitAll_pins, List.foldl_cons, drive_oe more _ hmore]
  rfl

/-- The enabling is the last event of a scan step (43_scan_engine.md R148). -/
theorem scanEvents_oe_true_last {row : Nat} {seq : List Bool} {pre post : List PinEvent}
    (h : scanEvents row seq = pre ++ .oe true :: post) : post = [] ∧ pre = .oe false :: blankedEvents row seq := by
  have hpost : post = [] := by
    by_contra hne
    have hsplit : scanEvents row seq = (pre ++ [.oe true]) ++ post := by simp [h]
    obtain ⟨more, hpart, hmore⟩ := scanEvents_proper_part hsplit (by simp) hne
    have hmem : .oe true ∈ PinEvent.oe false :: more := by simp [← hpart]
    exact hmore true (by simpa using hmem)
  subst hpost
  rw [scanEvents_eq, ← List.cons_append] at h
  exact ⟨rfl, (List.append_cancel_right h).symm⟩

/-- A scan step adds to the trace the events of its row, also on an overrun (43_scan_engine.md R146; log 13). -/
theorem scanStep_events_eq {s t : State} {es : List PinEvent} (hexec : exec .scanStep s = .next t)
    (hpt : t.pt = s.pt ++ es.map .item) : es = scanEvents s.srow (shiftSeq s.cfg s.pb s.srow) := by
  cases hexec
  rw [noteOverrun_scanRow_eq] at hpt
  exact (List.map_injective_iff.mpr (fun _ _ => Traced.item.inj) (List.append_cancel_left hpt)).symm

/-- Settles O40: the events are the row's, and `scanEvents_proper_part` says where OE stands among them. -/
theorem scanStepStaysBlanked : Obligations.ScanStepStaysBlanked := by
  intro s t es hexec hpt
  obtain rfl := scanStep_events_eq hexec hpt
  refine ⟨rfl, fun pre post => emitAll_proper_part_oe s, fun pre post h => ?_, fun pre post n h => ?_⟩
  · obtain ⟨hpost, rfl⟩ := scanEvents_oe_true_last h
    exact ⟨hpost, by simp [blankedEvents]⟩
  · refine emitAll_proper_part_oe s h ?_ (List.cons_ne_nil _ _)
    rintro rfl
    cases h

/-- Nothing is shown while OE is 0 (10_state.md R30). -/
theorem State.shown_of_blanked {s : State} (h : s.pins.oe = false) : s.shown = none := by
  simp [State.shown, h]

/-- No LED is lit while nothing is shown (43_scan_engine.md R149). -/
theorem State.ledLit_of_shown_eq_none {s : State} (h : s.shown = none) (y x : Nat) : s.ledLit y x = false := by
  simp [State.ledLit, h]

@[simp] theorem noteOverrun_scanRow_pins (s : State) : (noteOverrun (scanRow s)).pins = (scanRow s).pins := by
  rw [noteOverrun_scanRow_eq]
@[simp] theorem noteOverrun_scanRow_panel (s : State) : (noteOverrun (scanRow s)).panel = (scanRow s).panel := by
  rw [noteOverrun_scanRow_eq]

/-- After a scan step the panel shows the row and the bits shifted (43_scan_engine.md R150). -/
theorem noteOverrun_scanRow_shown {s : State} (hclk : s.pins.clk = false) (hlat : s.pins.lat = false)
    (hsr : s.panel.sr.length = s.cfg.shiftLen) :
    (noteOverrun (scanRow s)).shown = some (s.srow, shiftSeq s.cfg s.pb s.srow) := by
  simp [State.shown, scanRow_pins s hclk hsr, scanRow_shows s hclk hlat hsr]

/-- Settles O41: SHOWN is the row and its bits, the lit LEDs are those `State.ledLit_iff` gives for it, and during the
step, while OE is 0, the panel shows nothing. -/
theorem scanStepShowsTheRow : Obligations.ScanStepShowsTheRow := by
  intro s t hclk hlat hsr hexec
  have hshown : t.shown = some (s.srow, shiftSeq s.cfg s.pb s.srow) := by
    cases hexec
    exact noteOverrun_scanRow_shown hclk hlat hsr
  refine ⟨?_, hshown, fun y x => ?_, fun es pre post hpt hes hpre hpost => ?_⟩
  · cases hexec
    simp [scanRow_shows s hclk hlat hsr]
  · simp [State.ledLit_iff, hshown, exec_cfg hexec]
  · have hevents := (scanStep_events_eq hexec hpt).symm.trans hes
    have hnone := State.shown_of_blanked (emitAll_proper_part_oe s hevents hpre hpost)
    exact ⟨hnone, State.ledLit_of_shown_eq_none hnone⟩

end Sys2Proof.Machine
end

section
/-! O42: what leaves the display alone (43_scan_engine.md R150, R152). -/

namespace Sys2Proof.Machine

/-- `t` has the pins, the panel, the pin trace and the scan row of `s` (10_state.md R27 to R30). -/
structure KeepsDisplay (s t : State) : Prop where
  srow : t.srow = s.srow
  pins : t.pins = s.pins
  panel : t.panel = s.panel
  pt : t.pt = s.pt

/-- What is shown is read off the pins and the panel (10_state.md R30). -/
theorem KeepsDisplay.shown {s t : State} (h : KeepsDisplay s t) : t.shown = s.shown := by
  unfold State.shown
  rw [h.pins, h.panel]

/-- Every operation but SCAN_STEP and an expiring TIME_ADVANCE keeps the display: a case for each effect. -/
theorem exec_keepsDisplay {i : Instr} {s t : State} (h : exec i s = .next t) (hi : i ≠ .scanStep)
    (hx : ∀ d, i = .timeAdvance d → ¬ Expires d s) : KeepsDisplay s t := by
  cases exec_effect h with
  | scan => exact absurd rfl hi
  | advance d => rw [advanceTime_eq (hx d rfl)]; exact ⟨rfl, rfl, rfl, rfl⟩
  | command hd p =>
    have hkeeps := runPdu_keeps hd p s.begin
    exact ⟨hkeeps.srow, hkeeps.pins, hkeeps.panel, hkeeps.pt⟩
  | chunk c ho =>
    have hkeeps := acceptChunk_keeps c s.begin
    exact ⟨hkeeps.srow, hkeeps.pins, hkeeps.panel, hkeeps.pt⟩
  | write | writeBlock => rw [storeAndEval_eq]; exact ⟨rfl, rfl, rfl, rfl⟩
  | display => rw [displayWork_eq]; exact ⟨rfl, rfl, rfl, rfl⟩
  | supervise => rw [superviseOnce_eq]; exact ⟨rfl, rfl, rfl, rfl⟩
  | init n => rw [startWatchdog_eq]; exact ⟨rfl, rfl, rfl, rfl⟩
  | answer | consume | render | publish | blocked | connect | disconnect | kick | reload =>
    exact ⟨rfl, rfl, rfl, rfl⟩

/-- Settles O42: SHOWN is read off what the operation keeps, and the LEDs off SHOWN and the configuration. -/
theorem onlyScanStepsChangeTheDisplay : Obligations.OnlyScanStepsChangeTheDisplay := by
  intro i s t h hi hx
  have hkeeps := exec_keepsDisplay h hi hx
  exact ⟨hkeeps.shown, State.ledLit_congr hkeeps.shown (exec_cfg h), hkeeps.pins, hkeeps.pt, hkeeps.srow⟩

end Sys2Proof.Machine
end

section
/-! O43: scan steps one after another (43_scan_engine.md R141, R151). -/

namespace Sys2Proof.Machine

@[simp] theorem noteOverrun_scanRow_srow (s : State) :
    (noteOverrun (scanRow s)).srow = (s.srow + 1) % s.cfg.scanRows := by
  rw [noteOverrun_scanRow_eq]

/-- A run of scan steps is the first of them and then the others. -/
theorem execAll_replicate_scanStep_succ (n : Nat) (s : State) :
    execAll (List.replicate (n + 1) .scanStep) s
      = execAll (List.replicate n .scanStep) (noteOverrun (scanRow s)) := rfl

/-- Settles O43, by induction on the number of scan steps: the first moves to the row after its own, and the others
go on from there. -/
theorem scanStepsGoRound : Obligations.ScanStepsGoRound := by
  intro s n hs
  induction n generalizing s with
  | zero => exact ⟨s, rfl, (Nat.mod_eq_of_lt hs).symm, by simp⟩
  | succ n ih =>
    have hfirst : (noteOverrun (scanRow s)).srow < (noteOverrun (scanRow s)).cfg.scanRows := by
      simpa using Nat.mod_lt _ (scanRows_pos s.cfg)
    obtain ⟨t, hrun, hrow, haddr⟩ := ih _ hfirst
    rw [noteOverrun_scanRow_srow, noteOverrun_scanRow_cfg, Nat.mod_add_mod] at hrow haddr
    refine ⟨t, hrun, by rw [hrow, Nat.add_assoc, Nat.add_comm 1 n], fun _ => ?_⟩
    cases n with
    | zero =>
      cases hrun
      rw [noteOverrun_scanRow_pins, scanRow_pins_from_any]
      exact (Nat.mod_eq_of_lt hs).symm
    | succ n =>
      rw [haddr (by omega)]
      congr 1
      omega

end Sys2Proof.Machine
end

section
/-! O6, O8: a step takes the first turn of its schedule, and none when there is none (60_exceptions.md R159; log 1,
16). -/

namespace Sys2Proof.Machine

/-- Settles O6: the first scheduled turn is taken, and a request that decodes has its operation executed. -/
theorem stepRunsDecodedRequest : Obligations.StepRunsDecodedRequest := by
  intro s r more i hf hc hp hdecode
  rw [step_eq_takeTurn hf hc hp, takeTurn_of_decodes hdecode]

/-- Settles O8, by the branch of a step that finds no turn. -/
theorem idleStepChangesNothing : Obligations.IdleStepChangesNothing := by
  intro s hf hc hp
  simp [step, hf, hc, hp]

end Sys2Proof.Machine
end

section
/-! O45, O48, O49: what a kick and the clock do (60_exceptions.md R165, R169, R170). -/

namespace Sys2Proof.Machine

/-- Settles O45: the new liveness table is the old one with `now` put in the slot. -/
theorem kickRecordsNow : Obligations.KickRecordsNow := fun s slot =>
  ⟨s.lt.put s.now slot, s.lt.get_put_self s.now slot, fun _ hj => s.lt.get_put_of_ne s.now hj, rfl⟩

/-- TIME_ADVANCE without an expiry moves `now`, and the countdown where it runs (60_exceptions.md R169). -/
theorem exec_timeAdvance {d : Nat} {s : State} (hx : ¬ Expires d s) : exec (.timeAdvance d) s = .next { s with
    now := s.now + d
    wdtCnt := if s.wdtRun = true then s.wdtCnt - d else s.wdtCnt
    outs := [.ok .unit] } := by
  rw [exec, execTimeAdvance, advanceTime_eq hx, State.done]

/-- TIME_ADVANCE with an expiry forces the block reset at the advanced time (60_exceptions.md R169, R170). -/
theorem exec_timeAdvance_expires {d : Nat} {s : State} (hx : Expires d s) :
    exec (.timeAdvance d) s = .next ((blockReset { s with now := s.now + d }).done (.ok .unit)) := by
  rw [exec, execTimeAdvance, advanceTime_expires hx]

/-- Settles O48: with the watchdog stopped or the countdown above d nothing expires; at d or below it does. -/
theorem timeAdvanceCountsDown : Obligations.TimeAdvanceCountsDown := by
  refine fun s d => ⟨fun hstop => ?_, fun hrun hd => ?_, fun hrun hd => exec_timeAdvance_expires ⟨hrun, hd⟩⟩
  · rw [exec_timeAdvance (by simp [hstop])]
    simp [hstop]
  · rw [exec_timeAdvance (by simp [hd]), if_pos hrun]

/-- Settles O49: the state after an expiry is the block reset's, and its fields are read off. -/
theorem expiryResetsTheBlock : Obligations.ExpiryResetsTheBlock := by
  intro s d hx
  have hslots (slot : Slot) : (blockReset { s with now := s.now + d }).lt.get slot = s.now + d := by
    cases slot <;> rfl
  exact ⟨_, exec_timeAdvance_expires hx, rfl, rfl, rfl, rfl, rfl, rfl, rfl, rfl, State.shown_of_blanked rfl, rfl, rfl,
    rfl, hslots, rfl, rfl, rfl, rfl, rfl, rfl, rfl, rfl⟩

end Sys2Proof.Machine
end

section
/-! O46: a supervisor's iteration, whole and read by read (60_exceptions.md R166, 20_memory.md R61; log 14). -/

namespace Sys2Proof.Machine

/-! ### The whole iteration -/

/-- After its own kick the supervisor finds the block healthy when THRESH is above 0 and every other slot is younger
than THRESH (60_exceptions.md R166). -/
theorem healthy_kickSupervisor_iff (s : State) : healthy (kickSlot .supervisor s) = true ↔
    0 < s.cfg.thresh ∧ ∀ slot, slot ≠ .supervisor → s.now - s.lt.get slot < s.cfg.thresh := by
  simp only [healthy_iff, kickSlot_now, kickSlot_lt, kickSlot_cfg]
  constructor
  · intro h
    refine ⟨by simpa using h .supervisor, fun slot hslot => ?_⟩
    rw [← Liveness.get_put_of_ne s.lt s.now hslot]
    exact h slot
  · rintro ⟨hpos, hyoung⟩ slot
    by_cases hslot : slot = .supervisor
    · simpa [hslot] using hpos
    · rw [Liveness.get_put_of_ne s.lt s.now hslot]
      exact hyoung slot hslot

/-- SUPERVISOR_CYCLE kicks its slot, and reloads a running watchdog when the block is healthy (60_exceptions.md
R166). -/
theorem exec_supervisorCycle (s : State) : exec .supervisorCycle s = .next { s with
    lt := { s.lt with supervisor := s.now }
    wdtCnt := if healthy (kickSlot .supervisor s) = true ∧ s.wdtRun = true then s.cfg.wdtTimeout else s.wdtCnt
    outs := [.ok .unit] } := by
  rw [exec, execSupervisorCycle, superviseOnce_eq]
  rfl

/-! ### The iteration read by read -/

/-- The first read of an iteration kicks the supervisor's slot and judges PROTO's (60_exceptions.md R166; log 14). -/
theorem superviseRead_first {s : State} (h : s.sup = none) : superviseRead s = { s with
    lt := { s.lt with supervisor := s.now }
    sup := some ⟨.logger, [.display, .supervisor], slotHealthy s .proto⟩
    outs := [] } := by
  unfold superviseRead
  rw [h]
  rfl

/-- A later read goes on with the iteration under way (20_memory.md R61). -/
theorem superviseRead_of_sup_eq_some {s : State} {c : SupervisorCycle} (h : s.sup = some c) :
    superviseRead s = readSlot c s := by
  unfold superviseRead
  rw [h]

/-- A read of the supervisor does not depend on the schedule (log 1). -/
theorem superviseRead_setPending (s : State) (us : List Turn) :
    superviseRead { s with pending := us } = { superviseRead s with pending := us } := by
  obtain hs | ⟨c, hs⟩ := Option.eq_none_or_eq_some s.sup
  · rw [superviseRead_first hs, superviseRead_first (s := { s with pending := us }) hs]
    rfl
  · rw [superviseRead_of_sup_eq_some hs, superviseRead_of_sup_eq_some (s := { s with pending := us }) hs]
    obtain ⟨slot, more, ok⟩ := c
    cases more with
    | nil => simp only [readSlot_last]; rfl
    | cons next rest => rfl

/-- A run goes on from the state its first step answers. -/
theorem run_succ_of_step (M : Host.Core) {s t : M.State} (h : M.step s = .next t) (n : Nat) :
    M.run (n + 1) s = M.run n t := by
  rw [Host.Core.run, h]

/-- A run of scheduled reads with nothing between them makes the reads one after another (20_memory.md R61). -/
theorem run_superviseReads (n : Nat) {s : State} {more : List Turn} (hf : s.fault = none)
    (hc : configLegal s.cfg = true) (hp : s.pending = List.replicate n .superviseRead ++ more) :
    core.run n s = .next (superviseRead^[n] { s with pending := more }) := by
  induction n generalizing s with
  | zero => cases s; cases hp; rfl
  | succ n ih =>
    have hstep : core.step s = .next (superviseRead { s with pending := List.replicate n .superviseRead ++ more }) :=
      step_eq_takeTurn hf hc hp
    have hrest := ih (s := superviseRead { s with pending := List.replicate n .superviseRead ++ more })
      (by rw [superviseRead_eq]; exact hf) (by rw [superviseRead_cfg]; exact hc) (superviseRead_pending _)
    refine (run_succ_of_step core hstep n).trans (hrest.trans ?_)
    rw [← superviseRead_setPending, Function.iterate_succ_apply]

/-- Settles O46: the whole iteration by its health condition, a single read by its place in the iteration, and four
reads with nothing between them by the run they make. -/
theorem supervisorKicksWhenHealthy : Obligations.SupervisorKicksWhenHealthy := by
  refine fun s => ⟨fun hyoung hmargin => ?_, ?_, fun more hf hc hp => ?_, fun more hf hc hsup hp => ?_⟩
  · have hhealthy : healthy (kickSlot .supervisor s) = true :=
      (healthy_kickSupervisor_iff s).mpr ⟨Nat.sub_pos_of_lt hmargin, hyoung⟩
    simp [exec_supervisorCycle, hhealthy]
  · rintro ⟨slot, hslot, hold⟩
    have hstarved : ¬ healthy (kickSlot .supervisor s) = true := fun hhealthy =>
      absurd (((healthy_kickSupervisor_iff s).mp hhealthy).2 slot hslot) (Nat.not_lt.mpr hold)
    simp [exec_supervisorCycle, hstarved]
  · rw [step_eq_takeTurn hf hc hp, takeTurn, superviseRead_setPending]
    refine ⟨fun hsup => ?_, fun slot next rest ok hsup => ?_, fun slot ok hsup => ?_⟩
    · rw [superviseRead_first hsup]
      rfl
    · rw [superviseRead_of_sup_eq_some hsup, readSlot_more]
      rfl
    · rw [superviseRead_of_sup_eq_some hsup, readSlot_last]
      simp only [Bool.and_eq_true, slotHealthy_iff, and_assoc]
      rfl
  · rw [run_superviseReads 4 hf hc hp]
    exact congrArg _ (superviseRead_four _ hsup)

end Sys2Proof.Machine
end

section
/-! What an operation does to the countdown and to the liveness slots, said once for O47, O50 and O51, and what a run
without a reset keeps. -/

namespace Sys2Proof.Machine

/-- What operation `i` may do, from `s` to `t`, to the countdown and to `now` (60_exceptions.md R166 to R170). -/
inductive CountdownEffect (s t : State) : Instr → Prop
  /-- the countdown is left alone; of the supervisor's cycles by a starved one only -/
  | keep (i : Instr) (hi : i = .supervisorCycle → ¬ healthy (kickSlot .supervisor s) = true)
      (hrun : t.wdtRun = s.wdtRun) (hcnt : t.wdtCnt = s.wdtCnt) (hnow : t.now = s.now) : CountdownEffect s t i
  | start (n : Nat) (hrun : t.wdtRun = true) (hcnt : t.wdtCnt = if s.wdtRun = true then s.wdtCnt else n)
      (hnow : t.now = s.now) : CountdownEffect s t (.watchdogInit n)
  | reload (i : Instr) (hi : i = .watchdogKick ∨ (i = .supervisorCycle ∧ healthy (kickSlot .supervisor s) = true))
      (hrun : t.wdtRun = s.wdtRun) (hcnt : t.wdtCnt = if s.wdtRun = true then s.cfg.wdtTimeout else s.wdtCnt)
      (hnow : t.now = s.now) : CountdownEffect s t i
  | advance (d : Nat) (hx : ¬ Expires d s) (hrun : t.wdtRun = s.wdtRun)
      (hcnt : t.wdtCnt = if s.wdtRun = true then s.wdtCnt - d else s.wdtCnt) (hnow : t.now = s.now + d) :
      CountdownEffect s t (.timeAdvance d)
  | expire (d : Nat) (hx : Expires d s) (hrun : t.wdtRun = false) : CountdownEffect s t (.timeAdvance d)

@[simp] theorem displayWork_wdtCnt (s : State) : (displayWork s).wdtCnt = s.wdtCnt := by rw [displayWork_eq]
@[simp] theorem displayWork_lt (s : State) : (displayWork s).lt = s.lt := by rw [displayWork_eq]
@[simp] theorem noteOverrun_scanRow_wdtCnt (s : State) : (noteOverrun (scanRow s)).wdtCnt = s.wdtCnt := by
  rw [noteOverrun_scanRow_eq]
@[simp] theorem noteOverrun_scanRow_lt (s : State) : (noteOverrun (scanRow s)).lt = s.lt := by
  rw [noteOverrun_scanRow_eq]
@[simp] theorem startWatchdog_lt (n : Nat) (s : State) : (startWatchdog n s).lt = s.lt := by rw [startWatchdog_eq]

/-- Every operation has one of these effects on the countdown: a case for each of its effects on the state. -/
theorem exec_countdown {i : Instr} {s t : State} (h : exec i s = .next t) : CountdownEffect s t i := by
  cases exec_effect h with
  | command hd p =>
    have hkeeps := runPdu_keeps hd p s.begin
    exact .keep _ (by cases p <;> simp [Pdu.instr]) hkeeps.wdtRun hkeeps.wdtCnt hkeeps.now
  | chunk c =>
    have hkeeps := acceptChunk_keeps c s.begin
    exact .keep _ (by simp) hkeeps.wdtRun hkeeps.wdtCnt hkeeps.now
  | supervise =>
    rw [superviseOnce_eq]
    by_cases hh : healthy (kickSlot .supervisor s) = true
    · exact .reload _ (.inr ⟨rfl, hh⟩) rfl (by simp [hh]) rfl
    · exact .keep _ (fun _ => hh) rfl (by simp [hh]) rfl
  | init n =>
    rw [startWatchdog_eq]
    exact .start n rfl rfl rfl
  | reload => exact .reload _ (.inl rfl) rfl rfl rfl
  | advance d =>
    by_cases hx : Expires d s
    · rw [advanceTime_expires hx]
      exact .expire d hx rfl
    · rw [advanceTime_eq hx]
      exact .advance d hx rfl rfl rfl
  | answer _ _ _ _ hkicks => exact .keep _ (by rintro rfl; cases hkicks .supervisor) rfl rfl rfl
  | blocked _ hi =>
    refine .keep _ ?_ rfl rfl rfl
    obtain ⟨rfl, -⟩ | ⟨-, rfl | ⟨c, rfl⟩⟩ := hi <;> simp
  | kick _ slot hi =>
    refine .keep _ ?_ rfl rfl rfl
    obtain rfl | ⟨rfl, -⟩ := hi <;> simp
  | write | writeBlock | display | scan => exact .keep _ (by simp) (by simp) (by simp) (by simp)
  | consume | render | publish | connect | disconnect => exact .keep _ (by simp) rfl rfl rfl

/-- A slot holds `now` if it was kicked, and what it held otherwise (60_exceptions.md R165). -/
theorem kickSlot_get (k slot : Slot) (s : State) :
    (slot = k ∧ (kickSlot k s).lt.get slot = s.now) ∨ (kickSlot k s).lt.get slot = s.lt.get slot := by
  by_cases hk : slot = k
  · exact .inl ⟨hk, by rw [hk, kickSlot_lt, Liveness.get_put_self]⟩
  · exact .inr (Liveness.get_put_of_ne s.lt s.now hk)

/-- An operation that does not expire the watchdog writes no slot but those it kicks (60_exceptions.md R165). -/
theorem exec_slot {i : Instr} {s t : State} (h : exec i s = .next t)
    (hx : ∀ d, i = .timeAdvance d → ¬ Expires d s) (slot : Slot) :
    (kicks slot i = true ∧ t.lt.get slot = s.now) ∨ t.lt.get slot = s.lt.get slot := by
  cases exec_effect h with
  | display =>
    have hkick := kickSlot_get .display slot (displayWork s)
    simpa [kicks] using hkick
  | chunk c =>
    have hkeeps := acceptChunk_keeps c s.begin
    have hkick := kickSlot_get .proto slot (acceptChunk c s.begin)
    rw [hkeeps.lt, hkeeps.now] at hkick
    simpa [kicks] using hkick
  | kick _ k hi =>
    refine (kickSlot_get k slot s).imp_left fun ⟨hk, hget⟩ => ⟨?_, hget⟩
    obtain rfl | ⟨rfl, rfl⟩ := hi <;> simp [kicks, hk]
  | supervise =>
    have hkick := kickSlot_get .supervisor slot s
    rw [superviseOnce_eq]
    simpa [kicks] using hkick
  | command hd p =>
    have hlt := (runPdu_keeps hd p s.begin).lt
    exact .inr (by rw [hlt]; rfl)
  | advance d => exact .inr (by rw [advanceTime_eq (hx d rfl)]; rfl)
  | write | writeBlock | scan | init => exact .inr (by simp)
  | answer | consume | render | publish | blocked | connect | disconnect | reload => exact .inr rfl

/-- The supervisor's slot is kicked directly and by its cycle (60_exceptions.md R165, R166). -/
theorem kicks_supervisor_iff (i : Instr) :
    kicks .supervisor i = true ↔ i = .kick .supervisor ∨ i = .supervisorCycle := by
  cases i <;> simp [kicks]

/-- What every operation of a run keeps unless the watchdog expires, a run without a reset keeps. -/
theorem execAll_keeps_of_no_reset {P : State → Prop} {is : List Instr}
    (hkeep : ∀ i ∈ is, ∀ s t, exec i s = .next t → (∀ d, i = .timeAdvance d → ¬ Expires d s) → P s → P t)
    {s t : State} (hs : P s) (h : execAll is s = .next t) (hcount : resetCount t = resetCount s) : P t := by
  have hrun : resetCount s ≤ resetCount t ∧ (resetCount t = resetCount s → P t) := by
    refine execAll_keeps (P := fun u => resetCount s ≤ resetCount u ∧ (resetCount u = resetCount s → P u))
      (fun i hi u v hexec hu => ?_) ⟨le_rfl, fun _ => hs⟩ h
    obtain ⟨hle, hP⟩ := hu
    obtain ⟨-, hmark⟩ | ⟨hx, hsame⟩ := exec_resetCount hexec
    · exact ⟨by omega, fun heq => absurd heq (by omega)⟩
    · rw [hsame]
      exact ⟨hle, fun heq => hkeep i hi u v hexec hx (hP heq)⟩
  exact hrun.2 hcount

end Sys2Proof.Machine
end

section
/-! O47: the watchdog's own operations, and the countdown under the block's own schedule (60_exceptions.md R167, R168;
70_reset_and_hazards.md R182; log 17). -/

namespace Sys2Proof.Machine

/-- WATCHDOG_INIT starts a stopped countdown at t and leaves a running one (60_exceptions.md R167). -/
theorem exec_watchdogInit (t : Nat) (s : State) : exec (.watchdogInit t) s = .next { s with
    wdtRun := true
    wdtCnt := if s.wdtRun = true then s.wdtCnt else t
    outs := [.ok .unit] } := by
  rw [exec, execWatchdogInit, startWatchdog_eq, State.done]

/-- WATCHDOG_KICK reloads a running countdown and leaves a stopped one (60_exceptions.md R168). -/
theorem exec_watchdogKick (s : State) : exec .watchdogKick s = .next { s with
    wdtCnt := if s.wdtRun = true then s.cfg.wdtTimeout else s.wdtCnt
    outs := [.ok .unit] } := rfl

/-- A step of the block's own schedule is idle, executes an operation the block takes, or makes a read of the supervisor
after the watchdog was started; the configuration is legal and the other turns stay scheduled (log 17). -/
theorem blockStep_next {s u : State} (hsched : BlockSchedule s) (h : step s = .next u) :
    configLegal s.cfg = true ∧ BlockSchedule u ∧
      (u = s ∨ ∃ more,
        (∃ i, blockTakes s i = true ∧ exec i { s with pending := more } = .next u) ∨
        (s.wdtRun = true ∧ u = superviseRead { s with pending := more })) := by
  obtain ⟨-, hc, ⟨-, rfl⟩ | ⟨turn, more, hp, hturn⟩⟩ := step_next_turn h
  · exact ⟨hc, hsched, .inl rfl⟩
  · rw [BlockSchedule, hp] at hsched
    obtain ⟨htaken, hmore⟩ := hsched
    have hblock : BlockSchedule u := by
      rw [BlockSchedule, takeTurn_pending hturn]
      exact hmore u hturn
    refine ⟨hc, hblock, .inr ⟨more, ?_⟩⟩
    obtain ⟨r, i, rfl, hi, hexec⟩ | ⟨rfl, rfl⟩ := takeTurn_next hturn
    · exact .inl ⟨i, by simpa [turnTaken, hi] using htaken, hexec⟩
    · exact .inr ⟨htaken, rfl⟩

/-- The block starts the watchdog with WDT_TIMEOUT, so its operations keep the running countdown in range
(60_exceptions.md R167 to R169). -/
theorem exec_countdownInRange {i : Instr} {s t : State} (hi : blockTakes s i = true) (hpos : 0 < s.cfg.wdtTimeout)
    (h : exec i s = .next t) (hrange : CountdownInRange s) : CountdownInRange t := by
  intro htrun
  rw [exec_cfg h]
  cases exec_countdown h with
  | keep _ _ hrun hcnt =>
    rw [hcnt]
    exact hrange (hrun ▸ htrun)
  | start n _ hcnt =>
    obtain ⟨hstop, rfl⟩ : s.wdtRun = false ∧ n = s.cfg.wdtTimeout := by simpa [blockTakes] using hi
    rw [hcnt, if_neg (by simp [hstop])]
    exact ⟨hpos, le_rfl⟩
  | reload _ _ hrun hcnt =>
    rw [hcnt, if_pos (hrun ▸ htrun)]
    exact ⟨hpos, le_rfl⟩
  | advance d hx hrun hcnt =>
    have hsrun : s.wdtRun = true := hrun ▸ htrun
    have hleft : d < s.wdtCnt := by simpa [hsrun] using hx
    have hbound := (hrange hsrun).2
    rw [hcnt, if_pos hsrun]
    omega
  | expire d _ hrun => simp [hrun] at htrun

/-- A read of the supervisor keeps the running countdown or reloads it (60_exceptions.md R166). -/
theorem superviseRead_countdownInRange {s : State} (hpos : 0 < s.cfg.wdtTimeout) (hrange : CountdownInRange s) :
    CountdownInRange (superviseRead s) := by
  intro hrun
  rw [superviseRead_wdtRun] at hrun
  rw [superviseRead_cfg]
  obtain ⟨-, hcnt | ⟨-, hcnt⟩⟩ := superviseRead_writes s
  · rw [hcnt]
    exact hrange hrun
  · rw [hcnt]
    exact ⟨hpos, le_rfl⟩

/-- The block kicks the supervisor's slot in its cycles only, which come after the watchdog's start
(70_reset_and_hazards.md R182). -/
theorem kicks_supervisor_of_blockTakes {i : Instr} {s : State} (hi : blockTakes s i = true)
    (hstop : s.wdtRun = false) : kicks .supervisor i = false := by
  rw [Bool.eq_false_iff, ne_eq, kicks_supervisor_iff]
  rintro (rfl | rfl)
  · cases hi
  · simp [blockTakes, hstop] at hi

/-- While the watchdog is stopped the block leaves the supervisor's slot, and only its WATCHDOG_INIT with WDT_TIMEOUT
starts the countdown (70_reset_and_hazards.md R182). -/
theorem exec_before_watchdogInit {i : Instr} {s t : State} (hi : blockTakes s i = true) (hstop : s.wdtRun = false)
    (h : exec i s = .next t) :
    t.lt.supervisor = s.lt.supervisor ∧ (t.wdtRun = true → t.wdtCnt = s.cfg.wdtTimeout) := by
  constructor
  · obtain ⟨hkicks, -⟩ | hslot := exec_slot h (fun d _ => by simp [hstop]) .supervisor
    · rw [kicks_supervisor_of_blockTakes hi hstop] at hkicks
      cases hkicks
    · exact hslot
  · intro htrun
    cases exec_countdown h with
    | start n _ hcnt =>
      obtain ⟨-, rfl⟩ : s.wdtRun = false ∧ n = s.cfg.wdtTimeout := by simpa [blockTakes] using hi
      rw [hcnt, if_neg (by simp [hstop])]
    | keep _ _ hrun | reload _ _ hrun | advance _ _ hrun | expire _ _ hrun => simp [hrun, hstop] at htrun

theorem wdtTimeout_pos_of_legal {cfg : Config} (h : configLegal cfg = true) : 0 < cfg.wdtTimeout := by
  simp only [configLegal, Bool.and_eq_true, decide_eq_true_eq] at h
  omega

/-- Settles O47: the two operations while the watchdog is stopped and while it runs; then an idle step, an operation the
block takes and a read of the supervisor. -/
theorem watchdogInitAndKick : Obligations.WatchdogInitAndKick := by
  refine ⟨fun s t => ⟨fun hstop => ⟨?_, ?_⟩, fun hrun => ⟨?_, ?_⟩⟩, fun s u hsched h => ?_⟩
  · simp [exec_watchdogInit, hstop]
  · simp [exec_watchdogKick, hstop]
  · simp only [exec_watchdogInit, if_pos hrun]
    rw [← hrun]
  · simp [exec_watchdogKick, hrun]
  · obtain ⟨hc, hblock, hnext⟩ := blockStep_next hsched h
    have hpos := wdtTimeout_pos_of_legal hc
    refine ⟨hblock, ?_⟩
    obtain rfl | ⟨more, ⟨i, hi, hexec⟩ | ⟨hrun, rfl⟩⟩ := hnext
    · exact ⟨id, fun hstop => ⟨rfl, fun hrun => by simp [hstop] at hrun⟩⟩
    · exact ⟨exec_countdownInRange (s := { s with pending := more }) hi hpos hexec,
        fun hstop => exec_before_watchdogInit (s := { s with pending := more }) hi hstop hexec⟩
    · exact ⟨superviseRead_countdownInRange (s := { s with pending := more }) hpos,
        fun hstop => by simp [hstop] at hrun⟩

end Sys2Proof.Machine
end

section
/-! O50, O51: a starved watchdog expires in time and a fed one never does (60_exceptions.md R171; log 26). -/

namespace Sys2Proof.Machine

/-! ### Starvation -/

/-- The slot was last kicked at `t0`, and the countdown runs and ends within THRESH + WDT_TIMEOUT of it: no cycle at
`t0` + THRESH or later reloads it (60_exceptions.md R171). -/
structure Starving (slot : Slot) (t0 : Nat) (s : State) : Prop where
  unkicked : s.lt.get slot = t0
  running : s.wdtRun = true
  positive : 0 < s.wdtCnt
  timeout : 0 < s.cfg.wdtTimeout
  bounded : s.now + s.wdtCnt ≤ t0 + s.cfg.thresh + s.cfg.wdtTimeout

/-- An operation that neither kicks the slot nor directly the watchdog keeps the bound, unless the watchdog expires:
the cycle that reloads the countdown finds the slot younger than THRESH. -/
protected theorem Starving.exec {slot : Slot} {t0 : Nat} {i : Instr} {s t : State} (h : Starving slot t0 s)
    (hkicks : kicks slot i = false) (hi : i ≠ .watchdogKick) (hx : ∀ d, i = .timeAdvance d → ¬ Expires d s)
    (he : exec i s = .next t) : Starving slot t0 t := by
  obtain ⟨hslot, hsrun, hspos, htimeout, hbound⟩ := h
  have hcfg := exec_cfg he
  have hkept : t.lt.get slot = t0 := by
    obtain ⟨hyes, -⟩ | hsame := exec_slot he hx slot
    · simp [hkicks] at hyes
    · rw [hsame, hslot]
  suffices hcount : t.wdtRun = true ∧ 0 < t.wdtCnt ∧ t.now + t.wdtCnt ≤ t0 + s.cfg.thresh + s.cfg.wdtTimeout by
    obtain ⟨hrun, hpos, hle⟩ := hcount
    exact ⟨hkept, hrun, hpos, hcfg ▸ htimeout, hcfg ▸ hle⟩
  cases exec_countdown he with
  | keep _ _ hrun hcnt hnow => exact ⟨hrun.trans hsrun, by omega, by omega⟩
  | start n hrun hcnt hnow =>
    rw [if_pos hsrun] at hcnt
    exact ⟨hrun, by omega, by omega⟩
  | reload _ hcause hrun hcnt hnow =>
    rw [if_pos hsrun] at hcnt
    obtain rfl | ⟨rfl, hhealthy⟩ := hcause
    · exact absurd rfl hi
    · have hother : slot ≠ .supervisor := by simpa [kicks] using hkicks
      have hyoung := ((healthy_kickSupervisor_iff s).mp hhealthy).2 slot hother
      rw [hslot] at hyoung
      exact ⟨hrun.trans hsrun, by omega, by omega⟩
  | advance d hsafe hrun hcnt hnow =>
    have hleft : d < s.wdtCnt := by simpa [hsrun] using hsafe
    rw [if_pos hsrun] at hcnt
    exact ⟨hrun.trans hsrun, by omega, by omega⟩
  | expire d hexp => exact absurd hexp (hx d rfl)

/-- Settles O50: a run without a reset keeps the bound on the countdown, which is still above 0 at its end. -/
theorem starvedWatchdogExpires : Obligations.StarvedWatchdogExpires := by
  intro slot is s t hrun hpos hle hslot his hexec hcount
  have hstart : Starving slot s.now s := ⟨hslot, hrun, hpos, by omega, by omega⟩
  have hkeep (i) (hi : i ∈ is) (u v : State) (he : exec i u = .next v)
      (hx : ∀ d, i = .timeAdvance d → ¬ Expires d u) (hu : Starving slot s.now u ∧ u.cfg = s.cfg) :
      Starving slot s.now v ∧ v.cfg = s.cfg := by
    obtain ⟨hkicks, hkick⟩ := his i hi
    exact ⟨hu.1.exec hkicks hkick hx he, (exec_cfg he).trans hu.2⟩
  obtain ⟨hend, hcfg⟩ := execAll_keeps_of_no_reset hkeep ⟨hstart, rfl⟩ hexec hcount
  have hbound := hend.bounded
  have hleft := hend.positive
  rw [hcfg] at hbound
  omega

/-! ### A fed watchdog -/

/-- The countdown runs and does not end before WDT_TIMEOUT after the last cycle of the supervisor, whose time its slot
holds (60_exceptions.md R166, R171). -/
structure Fed (s : State) : Prop where
  running : s.wdtRun = true
  past : s.lt.supervisor ≤ s.now
  covered : s.lt.supervisor + s.cfg.wdtTimeout ≤ s.now + s.wdtCnt

/-- What R171 asks of operation `i` in state `s`: a cycle finds every other slot younger than THRESH, and the clock
stays within WDT_TIMEOUT of the last cycle. -/
def FeedsInTime (i : Instr) (s : State) : Prop :=
  (i = .supervisorCycle → ∀ slot, slot ≠ .supervisor → s.now - s.lt.get slot < s.cfg.thresh) ∧
  ∀ d, i = .timeAdvance d → s.now + d - s.lt.supervisor < s.cfg.wdtTimeout

/-- The countdown of a fed watchdog covers every advance of the clock that comes in time. -/
theorem Fed.not_expires {i : Instr} {s : State} (h : Fed s) (hin : FeedsInTime i s) (d : Nat)
    (hi : i = .timeAdvance d) : ¬ Expires d s := by
  rintro ⟨-, hle⟩
  have hcovered := h.covered
  have hpast := h.past
  have htime := hin.2 d hi
  omega

/-- An operation that feeds in time keeps the watchdog fed: a cycle finds the block healthy and reloads the countdown at
the time it puts in its slot. -/
protected theorem Fed.exec {i : Instr} {s t : State} (h : Fed s) (hmargin : s.cfg.wdtMargin < s.cfg.wdtTimeout)
    (hi : i ≠ .kick .supervisor) (hin : FeedsInTime i s) (he : exec i s = .next t) : Fed t := by
  have hx := h.not_expires hin
  obtain ⟨hsrun, hpast, hcovered⟩ := h
  have hcfg := exec_cfg he
  have hslot : (i = .supervisorCycle ∧ t.lt.supervisor = s.now) ∨ t.lt.supervisor = s.lt.supervisor :=
    (exec_slot he hx .supervisor).imp_left fun ⟨hkicks, hnow⟩ =>
      ⟨((kicks_supervisor_iff i).mp hkicks).resolve_left hi, hnow⟩
  have hsame (hne : i ≠ .supervisorCycle) : t.lt.supervisor = s.lt.supervisor :=
    hslot.resolve_left fun ⟨hcycle, _⟩ => hne hcycle
  have hhealthy (hcycle : i = .supervisorCycle) : healthy (kickSlot .supervisor s) = true :=
    (healthy_kickSupervisor_iff s).mpr ⟨Nat.sub_pos_of_lt hmargin, hin.1 hcycle⟩
  suffices hcount : t.wdtRun = true ∧ t.lt.supervisor ≤ t.now ∧
      t.lt.supervisor + s.cfg.wdtTimeout ≤ t.now + t.wdtCnt by
    obtain ⟨hrun, hle, hcover⟩ := hcount
    exact ⟨hrun, hle, hcfg ▸ hcover⟩
  cases exec_countdown he with
  | keep _ hstarved hrun hcnt hnow =>
    have hlt := hsame fun hcycle => hstarved hcycle (hhealthy hcycle)
    exact ⟨hrun.trans hsrun, by omega, by omega⟩
  | start n hrun hcnt hnow =>
    have hlt := hsame (by simp)
    rw [if_pos hsrun] at hcnt
    exact ⟨hrun, by omega, by omega⟩
  | reload _ _ hrun hcnt hnow =>
    rw [if_pos hsrun] at hcnt
    exact ⟨hrun.trans hsrun, by omega, by omega⟩
  | advance d hsafe hrun hcnt hnow =>
    have hlt := hsame (by simp)
    have hleft : d < s.wdtCnt := by simpa [hsrun] using hsafe
    rw [if_pos hsrun] at hcnt
    exact ⟨hrun.trans hsrun, by omega, by omega⟩
  | expire d hexp => exact absurd hexp (hx d rfl)

/-- A run in which every operation feeds in time holds no reset: by induction on the run, whose first operation keeps
the watchdog fed. -/
theorem Fed.execAll_resetCount {is : List Instr} {s t : State} (h : Fed s)
    (hmargin : s.cfg.wdtMargin < s.cfg.wdtTimeout) (hkick : .kick .supervisor ∉ is)
    (hin : ∀ pre i post u, is = pre ++ i :: post → execAll pre s = .next u → FeedsInTime i u)
    (he : execAll is s = .next t) : resetCount t = resetCount s := by
  induction is generalizing s with
  | nil => cases he; rfl
  | cons i is ih =>
    obtain ⟨u, hu, hrest⟩ := execAll_cons_next he
    rw [List.mem_cons, not_or] at hkick
    obtain ⟨hi, his⟩ := hkick
    have hfirst : FeedsInTime i s := hin [] i is s rfl rfl
    have hlater (pre j post v) (hsplit : is = pre ++ j :: post) (hv : execAll pre u = .next v) : FeedsInTime j v :=
      hin (i :: pre) j post v (by rw [hsplit, List.cons_append]) (by rw [execAll, hu]; exact hv)
    have hsame : resetCount u = resetCount s := by
      obtain ⟨⟨d, hd, hexp⟩, -⟩ | ⟨-, hsame⟩ := exec_resetCount hu
      · exact absurd hexp (h.not_expires hfirst d hd)
      · exact hsame
    rw [← hsame]
    exact ih (h.exec hmargin (Ne.symm hi) hfirst hu) (exec_cfg hu ▸ hmargin) his hlater hrest

/-- Settles O51: a full countdown that runs at the time of the supervisor's slot is fed. -/
theorem fedWatchdogNeverExpires : Obligations.FedWatchdogNeverExpires := by
  intro is s t hrun hfull hslot hmargin hkick hin hexec
  have hfed : Fed s := ⟨hrun, hslot.le, by omega⟩
  exact hfed.execAll_resetCount hmargin hkick hin hexec

end Sys2Proof.Machine
end

section
/-! O10: the configuration check, and the step that makes it (00_scope.md R8, R10; 70_reset_and_hazards.md R183;
log 15). -/

namespace Sys2Proof.Machine

/-- A table is a legal FOLD when it gives each of the R scan rows L bits (43_scan_engine.md R144; log 11). -/
theorem foldLegal_of_other {cfg : Config} {len : Nat} {rows : List (List PixelExpr)} (h : cfg.fold = .other len rows) :
    foldLegal cfg = true ↔ rows.length = cfg.scanRows ∧ ∀ row ∈ rows, row.length = len := by
  simp [foldLegal, h]

/-- The configuration check is the conjunction of the requirements it cites. -/
theorem configLegal_iff (cfg : Config) :
    configLegal cfg = true ↔
      1 ≤ cfg.panelW ∧ 1 ≤ cfg.chain ∧ (cfg.addrLines = 2 ∨ cfg.addrLines = 3) ∧ cfg.mirror = false ∧
      cfg.swap = false ∧ 0 < cfg.fScan ∧ 259 ≤ cfg.bufCap ∧ 1 ≤ cfg.nqDepth ∧ 0 < cfg.supPeriod ∧
      0 < cfg.wdtTimeout ∧ cfg.wdtMargin < cfg.wdtTimeout ∧ foldLegal cfg = true := by
  simp only [configLegal, Bool.and_eq_true, Bool.or_eq_true, Bool.not_eq_true', decide_eq_true_eq, and_assoc]

/-- Without a fault a step refuses a configuration that fails the check, whatever is scheduled
(60_exceptions.md R160). -/
theorem step_of_illegal {s : State} (hf : s.fault = none) (hc : ¬ configLegal s.cfg = true) :
    step s = .refused .badConfig := by
  simp [step, hf, hc]

/-- Settles O10: each broken requirement contradicts its conjunct of a passed check. -/
theorem illegalConfigurationIsRefused : Obligations.IllegalConfigurationIsRefused := by
  intro s hf hbroken
  refine step_of_illegal hf fun hc => ?_
  obtain ⟨hpanel, hchain, haddr, hmirror, hswap, -, hbuf, hnq, -, -, hmargin, hfold⟩ := (configLegal_iff s.cfg).mp hc
  obtain h | h | ⟨h2, h3⟩ | h | h | h | h | ⟨len, rows, hother, h⟩ := hbroken
  · simp [hmirror] at h
  · simp [hswap] at h
  · exact haddr.elim h2 h3
  · exact (Nat.mul_pos hpanel hchain).ne' h
  · omega
  · omega
  · omega
  · obtain ⟨hrows, hlen⟩ := (foldLegal_of_other hother).mp hfold
    obtain h | ⟨row, hrow, h⟩ := h
    · exact h hrows
    · exact h (hlen row hrow)

end Sys2Proof.Machine
end

section
/-! O12: the power-on state (70_reset_and_hazards.md R177, R179). -/

namespace Sys2Proof.Machine

/-- At power-on every liveness slot is at `now`. -/
theorem boot_slot (cfg : Config) (now : Nat) (rb : Bitmap) (wdtCnt : Nat) (slot : Slot) :
    (State.boot cfg now rb wdtCnt).lt.get slot = now := by
  cases slot <;> rfl

/-- Settles O12: PB is the blank bitmap, OE is low so that the panel is dark, and the other fields are read off. -/
theorem powerOnState : Obligations.PowerOnState := by
  refine ⟨⟨Bitmap.blank 32, 0, 0, rfl⟩, ?_⟩
  rintro cfg now rb wdtCnt s rfl
  have hblank : ∀ y x : Nat, bitmapGet (State.boot cfg now rb wdtCnt).pb y x = false := bitmapGet_blank cfg.width
  have hdark : (State.boot cfg now rb wdtCnt).shown = none := State.shown_of_blanked rfl
  exact ⟨rfl, rfl, hblank, rfl, rfl, rfl, rfl, hdark, rfl, rfl, rfl, boot_slot cfg now rb wdtCnt, rfl, rfl, rfl, rfl,
    rfl, rfl, rfl⟩

end Sys2Proof.Machine
end

section
/-! O44: the scan overrun (70_reset_and_hazards.md R189; 93_implementation_defined.md I15; log 12, 13). -/

namespace Sys2Proof.Machine

/-- A scan step of the tick's length or more overruns. -/
theorem scanOverruns_of_le {cfg : Config} {d : Nat} (hd : cfg.scanStepNs = some d) (h : 1000000000 ≤ d * cfg.fScan) :
    scanOverruns cfg = true := by
  simp [scanOverruns, hd, h]

/-- A faulted state takes no further step (93_implementation_defined.md I15). -/
theorem step_of_fault {s : State} {f : Fault} (h : s.fault = some f) : step s = .fault f := by
  simp [step, h]

/-- Settles O44: the scan row keeps the configuration, so its end notes the overrun, and a step finds the FAULT. -/
theorem scanOverrunFaults : Obligations.ScanOverrunFaults := by
  intro s d hd h
  have hcfg : (scanRow s).cfg = s.cfg := by rw [scanRow_eq]
  have hfault : (noteOverrun (scanRow s)).fault = some .scanOverrun := by
    rw [noteOverrun_fault, hcfg, if_pos (scanOverruns_of_le hd h)]
  exact ⟨noteOverrun (scanRow s), rfl, hfault, step_of_fault hfault⟩

end Sys2Proof.Machine
end

section
/-! O1: decoding inverts encoding (30_encoding.md sections 1 to 4; log 3). The host commands are read back from their
frames, with the fields (O2) or without them; the port operations from the row of their selector (R84). -/

namespace Sys2Proof

/-! ### Operands at the end of a request -/

@[simp] theorem withOperand_some {α : Type} (sel : Byte) (x : α) (k : α → Except DecodeError Instr) :
    withOperand sel (some x) k = k x := rfl

/-- A last Nat operand is read back, with nothing left. -/
theorem decodeNat_encodeNat_end (n : Nat) : decodeNat (encodeNat n) = some (n, []) := by
  simpa using decodeNat_encodeNat n []

/-- The operation is given a last Nat operand. -/
theorem withOperand_encodeNat (sel : Byte) (n : Nat) (k : Nat × List Byte → Except DecodeError Instr) :
    withOperand sel (decodeNat (encodeNat n)) k = k (n, []) := by
  rw [decodeNat_encodeNat_end, withOperand_some]

/-- A last 16-bit operand is read back, with nothing left. -/
theorem decodeU16_bytes16_end (v : U16) : decodeU16 (bytes16 v) = some (v, []) := by
  simpa using decodeU16_bytes16 v []

/-! ### The rows of R84 with operands -/

theorem decodeRequest_read (a : Nat) : decodeRequest (encode (.read a)) = .ok (.read a) :=
  withOperand_encodeNat _ a _

/-- A quantity of at least 1 is stored as one less, and its bytes are not missing (log 3). -/
theorem decodeRequest_readBlock (a : Nat) {q : Nat} (hq : 1 ≤ q) :
    decodeRequest (encode (.readBlock a q)) = .ok (.readBlock a q) := by
  have hq0 : q ≠ 0 := by omega
  have hrow (ops : List Byte) : decodeRequest (.port (0xA1 :: ops)) = withOperand 0xA1 (decodeNat ops) fun x =>
      if x.2 = [] then .ok (.readBlock x.1 0)
      else withOperand 0xA1 (decodeNat x.2) fun y => .ok (.readBlock x.1 (y.1 + 1)) := rfl
  rw [encode, if_neg hq0, hrow, decodeNat_encodeNat, withOperand_some, if_neg (encodeNat_ne_nil _),
    withOperand_encodeNat, Nat.sub_add_cancel hq]

theorem decodeRequest_write (a : Nat) (v : U16) : decodeRequest (encode (.write a v)) = .ok (.write a v) := by
  have hrow (ops : List Byte) : decodeRequest (.port (0xA2 :: ops)) = withOperand 0xA2 (decodeNat ops) fun x =>
      withOperand 0xA2 (decodeU16 x.2) fun y => .ok (.write x.1 y.1) := rfl
  rw [encode, hrow, decodeNat_encodeNat, withOperand_some, decodeU16_bytes16_end, withOperand_some]

theorem decodeRequest_writeBlock (a : Nat) (vs : List U16) :
    decodeRequest (encode (.writeBlock a vs)) = .ok (.writeBlock a vs) := by
  have hrow (ops : List Byte) : decodeRequest (.port (0xA3 :: ops))
      = withOperand 0xA3 (decodeNat ops) fun x => .ok (.writeBlock x.1 (wordsOf x.2)) := rfl
  rw [encode, hrow, decodeNat_encodeNat, withOperand_some, wordsOf_flatMap_bytes16]

theorem decodeRequest_render (m sec : U16) : decodeRequest (encode (.render m sec)) = .ok (.render m sec) := by
  have hrow (ops : List Byte) : decodeRequest (.port (0xB0 :: ops)) = withOperand 0xB0 (decodeU16 ops) fun x =>
      withOperand 0xB0 (decodeU16 x.2) fun y => .ok (.render x.1 y.1) := rfl
  rw [encode, hrow, decodeU16_bytes16, withOperand_some, decodeU16_bytes16_end, withOperand_some]

theorem decodeRequest_receiveChunk {chunk : List Byte} (h : chunk ≠ []) :
    decodeRequest (encode (.receiveChunk chunk)) = .ok (.receiveChunk chunk) :=
  if_neg h

theorem decodeRequest_kick (slot : Slot) : decodeRequest (encode (.kick slot)) = .ok (.kick slot) := by
  have hrow (b : Byte) : decodeRequest (.port [0xE0, b]) = withOperand 0xE0 (decodeSlot b) fun x => .ok (.kick x) := rfl
  rw [encode, hrow, decodeSlot_encodeSlot, withOperand_some]

theorem decodeRequest_watchdogInit (t : Nat) : decodeRequest (encode (.watchdogInit t)) = .ok (.watchdogInit t) :=
  withOperand_encodeNat _ t _

/-- An advance of at least 1 is stored as one less (log 3). -/
theorem decodeRequest_timeAdvance {d : Nat} (hd : 1 ≤ d) :
    decodeRequest (encode (.timeAdvance d)) = .ok (.timeAdvance d) := by
  have hrow (ops : List Byte) : decodeRequest (.port (0xF0 :: ops))
      = withOperand 0xF0 (decodeNat ops) fun x => .ok (.timeAdvance (x.1 + 1)) := rfl
  rw [encode, hrow, withOperand_encodeNat, Nat.sub_add_cancel hd]

/-! ### The host commands -/

/-- The frame of a function code alone is the command of that code with nothing after it: without fields
(30_encoding.md R70 to R72), or unsupported (R73). -/
theorem decodeRequest_bareFrame (h : FrameHead) (fc : Byte) :
    decodeRequest (.frame (frameBytes h [fc])) = .ok ((decodePdu fc []).instr h) :=
  decodeRequest_frameBytes h fc [] (Nat.zero_le _)

theorem decodeRequest_readRegisters (h : FrameHead) (req : Option ReadReq) :
    decodeRequest (encode (.readRegisters h req)) = .ok (.readRegisters h req) := by
  cases req with
  | none => exact decodeRequest_bareFrame h 0x03
  | some r => exact decodeRequest_readFrame h r.addr r.qty

theorem decodeRequest_writeSingle (h : FrameHead) (req : Option WriteReq) :
    decodeRequest (encode (.writeSingle h req)) = .ok (.writeSingle h req) := by
  cases req with
  | none => exact decodeRequest_bareFrame h 0x06
  | some r => exact decodeRequest_writeFrame h r.addr r.value

theorem decodeRequest_writeMultiple (h : FrameHead) (req : Option WriteManyReq)
    (hwf : (Instr.writeMultiple h req).wellFormed = true) :
    decodeRequest (encode (.writeMultiple h req)) = .ok (.writeMultiple h req) := by
  cases req with
  | none => exact decodeRequest_bareFrame h 0x10
  | some r =>
    obtain ⟨hbc, hdata⟩ : r.data.length ≤ r.bc.toNat ∧ r.data.length ≤ 246 := by simpa [Instr.wellFormed] using hwf
    exact decodeRequest_writeManyFrame h r.addr r.qty hbc hdata

theorem decodeRequest_unsupported (h : FrameHead) {fc : Byte} (hwf : (Instr.unsupported h fc).wellFormed = true) :
    decodeRequest (encode (.unsupported h fc)) = .ok (.unsupported h fc) := by
  obtain ⟨⟨h3, h6⟩, h10⟩ : (fc ≠ 0x03 ∧ fc ≠ 0x06) ∧ fc ≠ 0x10 := by simpa [Instr.wellFormed] using hwf
  rw [encode, decodeRequest_bareFrame, decodePdu_unsupported [] h3 h6 h10, Pdu.instr]

/-- Settles O1: by cases on the operation. An operation without operands is its selector, on which the decoder
evaluates; every other has its lemma above. -/
theorem decodeInvertsEncode : Obligations.DecodeInvertsEncode := by
  intro i hwf
  cases i with
  | readRegisters h req => exact decodeRequest_readRegisters h req
  | writeSingle h req => exact decodeRequest_writeSingle h req
  | writeMultiple h req => exact decodeRequest_writeMultiple h req hwf
  | unsupported h fc => exact decodeRequest_unsupported h hwf
  | read a => exact decodeRequest_read a
  | readBlock a q => exact decodeRequest_readBlock a (of_decide_eq_true hwf)
  | write a v => exact decodeRequest_write a v
  | writeBlock a vs => exact decodeRequest_writeBlock a vs
  | render m sec => exact decodeRequest_render m sec
  | receiveChunk chunk => exact decodeRequest_receiveChunk (of_decide_eq_true hwf)
  | kick slot => exact decodeRequest_kick slot
  | watchdogInit t => exact decodeRequest_watchdogInit t
  | timeAdvance d => exact decodeRequest_timeAdvance (of_decide_eq_true hwf)
  | consumeChangedTime | getTime | getDate | getLogEnable | publish | displayStep | scanStep | connect | disconnect
  | protoIdle | supervisorCycle | watchdogKick => rfl

end Sys2Proof
end
